-- ==== Sys2Proof/Config.lean ====
section
/-! DEFINITION. What is fixed per build of the hardware. `00_scope.md` R5 leaves only the numbers of instances open
(N_ENC, N_DEC); every other parameter is a constant of the spec. The machine reads the numbers from the lengths of
the two instance lists of its state, so every statement holds for any number of instances; only `State.reset` uses
the values below. DESIGN CHOICE (log 6): the default of decision D26, one encoder and one decoder. -/

namespace Sys2Proof

/-- N_ENC of the reset state (R5, D26). -/
def Config.nEnc : Nat := 1

/-- N_DEC of the reset state (R5, D26). -/
def Config.nDec : Nat := 1

end Sys2Proof
end

