-- ==== Sys2Proof/Word.lean ====
section
/-! DEFINITION. The word types of the hardware (`00_scope.md` R5: BYTE_W, SYM_W, CHAR_W, CW_W; R9: everything is
unsigned, bit 0 is the least significant). -/

namespace Sys2Proof

/-- A raw byte or a character code: BYTE_W = CHAR_W = 8 (R5). -/
abbrev Byte := BitVec 8

/-- A symbol value: SYM_W = 6, range 0 to 63 (R5). -/
abbrev Sym := BitVec 6

/-- A command word: CW_W = 11, the opcode in bits 10:8 and the operand in bits 7:0 (R5, R73). -/
abbrev CmdWord := BitVec 11

end Sys2Proof
end

