-- ==== Sys2Proof/Syntax.lean ====
section
/-! DEFINITION. The instructions: one constructor per row of `opcode_table.json`. An encoder or decoder command carries
`n`, the instance whose port it arrives on (`30_encoding.md` R76: the port, not a bit of the word, selects the machine;
`60_exceptions.md` R151: any number of instances). An operand the spec ignores is not kept (R74); a reserved word is
kept whole, because a disassembler prints it (R82, log 11). -/

namespace Sys2Proof

inductive Instr where
  /-- ENC.NOP (R101). -/
  | encNop (n : Nat)
  /-- ENC.RESET (R102). -/
  | encReset (n : Nat)
  /-- ENC.INGEST b (R103). -/
  | encIngest (n : Nat) (b : Byte)
  /-- ENC.GETC (R104). -/
  | encGetc (n : Nat)
  /-- ENC.FINISH (R105). -/
  | encFinish (n : Nat)
  /-- ENC.PAD (R106). -/
  | encPad (n : Nat)
  /-- ENC.ILLEGAL: opcodes 0b110 and 0b111, with the word presented (R107). -/
  | encIllegal (n : Nat) (w : CmdWord)
  /-- DEC.NOP (R121). -/
  | decNop (n : Nat)
  /-- DEC.RESET (R122). -/
  | decReset (n : Nat)
  /-- DEC.INGEST c (R123). -/
  | decIngest (n : Nat) (c : Byte)
  /-- DEC.GETC (R124). -/
  | decGetc (n : Nat)
  /-- DEC.FINISH (R125). -/
  | decFinish (n : Nat)
  /-- DEC.ILLEGAL.101: opcode 0b101, with the word presented (R126). -/
  | decIllegal101 (n : Nat) (w : CmdWord)
  /-- DEC.ILLEGAL.11x: opcodes 0b110 and 0b111, with the word presented (R126). -/
  | decIllegal11x (n : Nat) (w : CmdWord)
  /-- LUT.ENC(i) (R90). -/
  | lutEnc (i : Sym)
  /-- LUT.DEC(c) (R91). -/
  | lutDec (c : Byte)
  deriving DecidableEq, Repr

/-- What the host presents on one port for one step (`30_encoding.md` R70 to R72, R84): a command port carries the level
of `rst` and a command word; a lookup port of the mapper carries its index. -/
inductive PortInput where
  /-- `rst` and `e_cw[10:0]` of encoder instance `n` (R70). -/
  | encPort (n : Nat) (rst : Bool) (w : CmdWord)
  /-- `rst` and `d_cw[10:0]` of decoder instance `n` (R71). -/
  | decPort (n : Nat) (rst : Bool) (w : CmdWord)
  /-- `enc_sym[5:0]` of the mapper (R72). -/
  | encSym (i : Sym)
  /-- `dec_char[7:0]` of the mapper (R72). -/
  | decChar (c : Byte)
  deriving DecidableEq, Repr

end Sys2Proof
end

