-- ==== Sys2Proof/Machine/State.lean ====
section
/-! DEFINITION. Everything the spec gives the machine, as plain data (`10_state.md` R20, R27; `30_encoding.md` R70 to
R72), and the host's command stream (R39 (b), log 1). The fields have the spec's widths, so every power-on value of
`70_reset_and_hazards.md` R162 is a state. -/

namespace Sys2Proof.Machine

/-- The response `(count, dout)` of a step (`30_encoding.md` R79), as the output registers hold it (R169, log 4). -/
structure Response where
  /-- `e_count[1:0]` or `d_count[1:0]` (R70, R71). -/
  count : BitVec 2
  /-- `e_dout[7:0]` or `d_dout[7:0]` (R70, R71). -/
  dout : Byte
  deriving DecidableEq, Repr

/-- The state of one encoder instance, 33 bits (R20). -/
structure EncState where
  /-- How many bytes of the current 3-byte group have been consumed (R21). -/
  phase : BitVec 2
  /-- The last ingested byte (R22). -/
  pending : Byte
  /-- The number of ready characters (R23). -/
  qlen : BitVec 2
  /-- The head of the output queue (R23). -/
  q0 : Byte
  /-- The second character of the output queue (R23). -/
  q1 : Byte
  /-- 0 ACTIVE, 1 FINISHED, 2 PADDED (R24). -/
  stage : BitVec 2
  /-- The sticky fault code, driven on `e_fault[2:0]` (R25, R37). -/
  fault : BitVec 3
  deriving DecidableEq, Repr

/-- The state of one decoder instance, 22 bits (R27). -/
structure DecState where
  /-- Position within the current 4-character group (R28). -/
  phase : BitVec 2
  /-- The symbol value of the last accepted, unsuppressed alphabet character (R29). -/
  pendingBits : Sym
  /-- A `=` has been ingested this session (R30). -/
  paddingSeen : Bool
  /-- The output slot holds a ready byte (R31). -/
  slotValid : Bool
  /-- The output slot (R31). -/
  slot : Byte
  /-- 0 ACTIVE, 1 FINISHED (R32). -/
  stage : BitVec 1
  /-- The sticky fault code, driven on `d_fault[2:0]` (R33, R37). -/
  fault : BitVec 3
  deriving DecidableEq, Repr

/-- One encoder instance: its state and its output registers. -/
structure EncInstance where
  reg : EncState
  out : Response
  deriving DecidableEq, Repr

/-- One decoder instance: its state and its output registers. -/
structure DecInstance where
  reg : DecState
  out : Response
  deriving DecidableEq, Repr

/-- The levels the host drives on the mapper's input pins (R72); the mapper holds no state of its own (R92), and its
output pins are computed from these (log 5). -/
structure MapperPins where
  /-- `enc_sym[5:0]`. -/
  encSym : Sym
  /-- `dec_char[7:0]`. -/
  decChar : Byte
  deriving DecidableEq, Repr

/-- The whole machine: any number of encoder and decoder instances (R151), the mapper's pins, and what the host presents
on the ports, oldest first (R83, log 1). -/
structure State where
  encs : List EncInstance
  decs : List DecInstance
  mapper : MapperPins
  inputs : List PortInput
  deriving DecidableEq, Repr

/-- How the MODEL stops. The hardware never stops: its own faults are codes recorded in a state (R146). -/
inductive Fault where
  /-- Raised by every encoder command addressed to an instance the state does not have. Safe: there is no such port. -/
  | noSuchEncoder (n : Nat)
  /-- Raised by every decoder command addressed to an instance the state does not have. Safe: there is no such port. -/
  | noSuchDecoder (n : Nat)
  deriving DecidableEq, Repr

/-- Why an instruction has no meaning here. -/
inductive Refusal where
  /-- Raised by an arm of `exec` whose instruction is not modelled; no arm is. Safe. -/
  | notModelled (mnemonic : String)
  deriving DecidableEq, Repr

/-- The response (0, 0x00) of a reset step, and of every step the spec gives no other response (R79, R161). -/
def Response.zero : Response := { count := 0#2, dout := 0x00#8 }

/-- The encoder's reset state: every field zero (R40, R161). -/
def EncState.reset : EncState :=
  { phase := 0#2, pending := 0x00#8, qlen := 0#2, q0 := 0x00#8, q1 := 0x00#8, stage := 0#2, fault := 0#3 }

/-- The decoder's reset state: every field zero (R40, R161). -/
def DecState.reset : DecState :=
  { phase := 0#2, pendingBits := 0#6, paddingSeen := false, slotValid := false, slot := 0x00#8, stage := 0#1, fault := 0#3 }

/-- An encoder instance right after a reset step (R161). -/
def EncInstance.reset : EncInstance := { reg := EncState.reset, out := Response.zero }

/-- A decoder instance right after a reset step (R161). -/
def DecInstance.reset : DecInstance := { reg := DecState.reset, out := Response.zero }

/-- The machine right after reset: every instance reset (R161), nothing presented. DESIGN CHOICE: the mapper's input
pins at 0 (log 5); the numbers of instances are Config's (log 6). -/
def State.reset : State :=
  { encs := List.replicate Config.nEnc EncInstance.reset
    decs := List.replicate Config.nDec DecInstance.reset
    mapper := { encSym := 0#6, decChar := 0x00#8 }
    inputs := [] }

end Sys2Proof.Machine
end

