-- ==== Sys2Proof/Machine/Flags.lean ====
section
/-! DEFINITION. The status bits and their codes: the hardware has no arithmetic flags (`10_state.md` R36, `43_common_laws.md`
R112); its status is the stage, the occupancy, the padding flag and the sticky fault code. -/

namespace Sys2Proof.Machine

/-! ### Fault codes (`60_exceptions.md` R141) -/

/-- Code 1. -/
def misuseUndrained : BitVec 3 := 1#3
/-- Code 2. -/
def misuseOrder : BitVec 3 := 2#3
/-- Code 3. -/
def misuseEmptyGetc : BitVec 3 := 3#3
/-- Code 4. -/
def decodeErrorCode : BitVec 3 := 4#3
/-- Code 5. -/
def illegalCmd : BitVec 3 := 5#3

/-! ### Stages (R24, R32) -/

/-- Encoder stage 0. -/
def stageActive : BitVec 2 := 0#2
/-- Encoder stage 1. -/
def stageFinished : BitVec 2 := 1#2
/-- Encoder stage 2. -/
def stagePadded : BitVec 2 := 2#2
/-- Decoder stage 0. -/
def decStageActive : BitVec 1 := 0#1
/-- Decoder stage 1. -/
def decStageFinished : BitVec 1 := 1#1

/-! ### The checks the command rules make (R36, R103 to R106, R123 to R125) -/

/-- The output queue is empty: `E.qlen = 0`. -/
def encDrained (e : EncState) : Bool := e.qlen == 0#2

/-- No FINISH accepted this session: `E.stage = ACTIVE`. -/
def encActive (e : EncState) : Bool := e.stage == stageActive

/-- FINISH accepted and PAD not: `E.stage = FINISHED`. -/
def encFinished (e : EncState) : Bool := e.stage == stageFinished

/-- No FINISH accepted this session: `D.stage = ACTIVE`. -/
def decActive (d : DecState) : Bool := d.stage == decStageActive

/-- The count of DEC.FINISH: `n = D.slot_valid` (R125). -/
def slotCount (d : DecState) : BitVec 2 := if d.slotValid then 1#2 else 0#2

/-- `(D.phase + 1) mod 4`, plain wrap-around of a 2-bit field (R112 (b)). -/
def nextDecPhase (p : BitVec 2) : BitVec 2 := p + 1#2

end Sys2Proof.Machine
end

