-- ==== Sys2Proof/WellFormed.lean ====
section
/-! DEFINITION. Which instructions some word encodes. Instance numbers and the operands of INGEST and of the two lookups
are unrestricted (`30_encoding.md` R74, `00_scope.md` R5); a reserved instruction must carry a word of its own reserved
opcodes (R75, R76, R78). -/

namespace Sys2Proof

/-- Opcodes 0b110 and 0b111: `w & 0x600 = 0x600` (R75, R76). -/
def reserved11x (w : CmdWord) : Bool := w &&& 0x600#11 == 0x600#11

/-- Opcode 0b101, reserved on the decoder only: `w & 0x700 = 0x500` (R76). -/
def reserved101 (w : CmdWord) : Bool := w &&& 0x700#11 == 0x500#11

/-- The instruction is the meaning of some word on its port. -/
def WellFormed : Instr → Bool
  | .encNop _ => true
  | .encReset _ => true
  | .encIngest _ _ => true
  | .encGetc _ => true
  | .encFinish _ => true
  | .encPad _ => true
  | .encIllegal _ w => reserved11x w
  | .decNop _ => true
  | .decReset _ => true
  | .decIngest _ _ => true
  | .decGetc _ => true
  | .decFinish _ => true
  | .decIllegal101 _ w => reserved101 w
  | .decIllegal11x _ w => reserved11x w
  | .lutEnc _ => true
  | .lutDec _ => true

end Sys2Proof
end

