-- ==== Sys2Proof/Decode.lean ====
section
/-! DEFINITION. Decoding and encoding (`30_encoding.md` R73 to R78). `decodeInput` is the hardware's decoder: total on
every value a port can carry, since every one of the 2048 words of a command port is classified (R78). A port value is
packed together with its port into one number, a FRAME, only where the host's interface asks for one number per
instruction; `decodeFrame` rejects by name the frames that no port can carry (log 10). -/

namespace Sys2Proof

/-- `op`, bits 10:8 of a command word (R73). -/
def opField (w : CmdWord) : BitVec 3 := w.extractLsb' 8 3

/-- `opd`, bits 7:0 of a command word (R73, R74). -/
def opdField (w : CmdWord) : Byte := w.extractLsb' 0 8

/-- The command word `{op, opd}` (R73). -/
def cmdWord (op : BitVec 3) (opd : Byte) : CmdWord := op ++ opd

/-- The encoder's opcode map (R75). -/
def decodeEncWord (n : Nat) (w : CmdWord) : Instr :=
  if opField w = 0b000#3 then .encNop n
  else if opField w = 0b001#3 then .encReset n
  else if opField w = 0b010#3 then .encIngest n (opdField w)
  else if opField w = 0b011#3 then .encGetc n
  else if opField w = 0b100#3 then .encFinish n
  else if opField w = 0b101#3 then .encPad n
  else .encIllegal n w

/-- The decoder's opcode map (R76). -/
def decodeDecWord (n : Nat) (w : CmdWord) : Instr :=
  if opField w = 0b000#3 then .decNop n
  else if opField w = 0b001#3 then .decReset n
  else if opField w = 0b010#3 then .decIngest n (opdField w)
  else if opField w = 0b011#3 then .decGetc n
  else if opField w = 0b100#3 then .decFinish n
  else if opField w = 0b101#3 then .decIllegal101 n w
  else .decIllegal11x n w

/-- The command or lookup a port's value selects: with `rst` at 1 the word is ignored and the step is that of RESET
(R84); else the word decides by the opcode map of its port (R75, R76); a lookup port has no opcode (R77). -/
def decodeInput : PortInput → Instr
  | .encPort n rst w => if rst then .encReset n else decodeEncWord n w
  | .decPort n rst w => if rst then .decReset n else decodeDecWord n w
  | .encSym i => .lutEnc i
  | .decChar c => .lutDec c

/-- Why a frame is no port value. -/
inductive FrameError where
  /-- A lookup frame with bits above `enc_sym[5:0]` set (R72). -/
  | symbolTooWide
  /-- A lookup frame with bits above `dec_char[7:0]` set (R72). -/
  | charTooWide
  /-- A lookup frame with an instance number: the mapper has none (R92). -/
  | mapperInstance
  deriving DecidableEq, Repr

/-- A decoded frame, or why it is rejected. -/
inductive Decoded (α : Type) where
  | ok (a : α)
  | rejected (e : FrameError)
  deriving DecidableEq, Repr

/-- A frame read as a port value: bits 10:0 the value, bits 12:11 the port (0 `e_cw`, 1 `d_cw`, 2 `enc_sym`,
3 `dec_char`), bits 13 and up the instance number. DESIGN CHOICE (log 10): the spec numbers no ports. -/
def decodeFrame (f : Nat) : Decoded PortInput :=
  let v := f % 2048
  let port := f / 2048 % 4
  let n := f / 8192
  if port = 0 then .ok (.encPort n false (BitVec.ofNat 11 v))
  else if port = 1 then .ok (.decPort n false (BitVec.ofNat 11 v))
  else if n ≠ 0 then .rejected .mapperInstance
  else if port = 2 then
    if v < 64 then .ok (.encSym (BitVec.ofNat 6 v)) else .rejected .symbolTooWide
  else
    if v < 256 then .ok (.decChar (BitVec.ofNat 8 v)) else .rejected .charTooWide

/-- The decoder on frames. -/
def decode (f : Nat) : Decoded Instr :=
  match decodeFrame f with
  | .ok p => .ok (decodeInput p)
  | .rejected e => .rejected e

/-- The decoder on bytes, the first byte holding the frame's bits 7:0. Total: every byte list is decoded or rejected by name.
DESIGN CHOICE (log 10): the spec has words of one length, 11 bits, and no byte form (R73). A list shorter than two bytes is
extended with zeros, so that the empty list is the word 0x000 on `e_cw` of instance 0, ENC.NOP. -/
def decodeBytes (bytes : List Byte) : Decoded Instr :=
  decode (bytes.foldr (fun b acc => b.toNat + 256 * acc) 0)

/-- The port value `decodeTableWord` reads: the host numbers bits as `opcode_table.json` does, in whole bytes. A row of
format `LUT` has no bits at all (R77), which is read as the lookup port `enc_sym` at 0. DESIGN CHOICE (log 10): R73 has no word shorter than 11 bits; the bits
at `nbits` and above are 0, so that with `nbits` from 1 to 10 a short number is read as the `e_cw` word extended with zeros. -/
def tableWordInput (nbits w : Nat) : Option PortInput :=
  if nbits = 0 then (if w = 0 then some (.encSym 0#6) else none)
  else if w < 2 ^ nbits then
    match decodeFrame w with
    | .ok p => some p
    | .rejected _ => none
  else none

/-- The instruction the decoder reads from an instruction whose bits are `w`. The words of ENC and DEC rows are the same
numbers; the port tells them apart, and bits 12:11 of a frame are the port, so a bare 11-bit word is on `e_cw` (log 10). -/
def decodeTableWord (nbits w : Nat) : Option Instr :=
  (tableWordInput nbits w).map decodeInput

/-! ### Encoding -/

/-- The canonical port value of an instruction: an ignored operand is 0x00 (R74), `rst` is 0. -/
def encodeInput : Instr → PortInput
  | .encNop n => .encPort n false (cmdWord 0b000#3 0x00#8)
  | .encReset n => .encPort n false (cmdWord 0b001#3 0x00#8)
  | .encIngest n b => .encPort n false (cmdWord 0b010#3 b)
  | .encGetc n => .encPort n false (cmdWord 0b011#3 0x00#8)
  | .encFinish n => .encPort n false (cmdWord 0b100#3 0x00#8)
  | .encPad n => .encPort n false (cmdWord 0b101#3 0x00#8)
  | .encIllegal n w => .encPort n false w
  | .decNop n => .decPort n false (cmdWord 0b000#3 0x00#8)
  | .decReset n => .decPort n false (cmdWord 0b001#3 0x00#8)
  | .decIngest n c => .decPort n false (cmdWord 0b010#3 c)
  | .decGetc n => .decPort n false (cmdWord 0b011#3 0x00#8)
  | .decFinish n => .decPort n false (cmdWord 0b100#3 0x00#8)
  | .decIllegal101 n w => .decPort n false w
  | .decIllegal11x n w => .decPort n false w
  | .lutEnc i => .encSym i
  | .lutDec c => .decChar c

/-- A port value as a frame (`decodeFrame`); the level of `rst` is not part of a frame. -/
def encodeFrame : PortInput → Nat
  | .encPort n _ w => 8192 * n + w.toNat
  | .decPort n _ w => 8192 * n + 2048 + w.toNat
  | .encSym i => 4096 + i.toNat
  | .decChar c => 6144 + c.toNat

/-- The encoder of instructions: the frame of the canonical port value. -/
def encode (i : Instr) : Nat := encodeFrame (encodeInput i)

/-! ### The opcode table as data -/

/-- Which port an instruction arrives on. -/
inductive PortKind where
  | encCw
  | decCw
  | encSym
  | decChar
  deriving DecidableEq, Repr

/-- One command row of `opcode_table.json`: the words `w` on `port` with `w & mask = pattern` (R75). -/
structure OpcodeRow where
  mnemonic : String
  port : PortKind
  mask : CmdWord
  pattern : CmdWord
  deriving DecidableEq, Repr

/-- The 14 command rows (R75, R76); the two rows of format `LUT` have an empty mask and no word (R77). -/
def commandRows : List OpcodeRow :=
  [⟨"ENC.NOP", .encCw, 0x700#11, 0x000#11⟩,
   ⟨"ENC.RESET", .encCw, 0x700#11, 0x100#11⟩,
   ⟨"ENC.INGEST", .encCw, 0x700#11, 0x200#11⟩,
   ⟨"ENC.GETC", .encCw, 0x700#11, 0x300#11⟩,
   ⟨"ENC.FINISH", .encCw, 0x700#11, 0x400#11⟩,
   ⟨"ENC.PAD", .encCw, 0x700#11, 0x500#11⟩,
   ⟨"ENC.ILLEGAL", .encCw, 0x600#11, 0x600#11⟩] ++
  [⟨"DEC.NOP", .decCw, 0x700#11, 0x000#11⟩,
   ⟨"DEC.RESET", .decCw, 0x700#11, 0x100#11⟩,
   ⟨"DEC.INGEST", .decCw, 0x700#11, 0x200#11⟩,
   ⟨"DEC.GETC", .decCw, 0x700#11, 0x300#11⟩,
   ⟨"DEC.FINISH", .decCw, 0x700#11, 0x400#11⟩,
   ⟨"DEC.ILLEGAL.101", .decCw, 0x700#11, 0x500#11⟩,
   ⟨"DEC.ILLEGAL.11x", .decCw, 0x600#11, 0x600#11⟩]

/-- The row selects the word (R75). -/
def OpcodeRow.selects (r : OpcodeRow) (port : PortKind) (w : CmdWord) : Bool :=
  r.port == port && w &&& r.mask == r.pattern

/-- The instruction's mnemonic in `opcode_table.json`. -/
def mnemonicOf : Instr → String
  | .encNop _ => "ENC.NOP"
  | .encReset _ => "ENC.RESET"
  | .encIngest _ _ => "ENC.INGEST"
  | .encGetc _ => "ENC.GETC"
  | .encFinish _ => "ENC.FINISH"
  | .encPad _ => "ENC.PAD"
  | .encIllegal _ _ => "ENC.ILLEGAL"
  | .decNop _ => "DEC.NOP"
  | .decReset _ => "DEC.RESET"
  | .decIngest _ _ => "DEC.INGEST"
  | .decGetc _ => "DEC.GETC"
  | .decFinish _ => "DEC.FINISH"
  | .decIllegal101 _ _ => "DEC.ILLEGAL.101"
  | .decIllegal11x _ _ => "DEC.ILLEGAL.11x"
  | .lutEnc _ => "LUT.ENC"
  | .lutDec _ => "LUT.DEC"

end Sys2Proof
end

