-- ==== Sys2Proof/Machine/Ops.lean ====
section
/-! DEFINITION. The operations the meanings share: the output queue and slot (`10_state.md` R23, R31), raising a fault and
the faulted state's freeze (`60_exceptions.md` R146), reset, one transaction on one instance's port
(`00_scope.md` R6, `60_exceptions.md` R151), the mapper's pins, and taking the next sample from the host. -/

namespace Sys2Proof.Machine

/-- The next state of an outcome, if it is one. -/
def nextState? (o : Host.Outcome State Fault Refusal) : Option State :=
  match o with
  | .next s => some s
  | .fault _ => none
  | .refused _ => none

/-! ### Output queue and slot -/

/-- `enq(c)` (R23): append to the queue. R23 defines it only below capacity, and every command that applies it has found
the queue empty; on a full queue the state is left as it is (DESIGN CHOICE, log 9). -/
def enq (c : Byte) (e : EncState) : EncState :=
  if e.qlen = 0#2 then { e with q0 := c, qlen := 1#2 }
  else if e.qlen = 1#2 then { e with q1 := c, qlen := 2#2 }
  else e

/-- Removing the head of the queue (R23, R104): the second character moves up and its place is zeroed. -/
def deq (e : EncState) : EncState := { e with q0 := e.q1, q1 := 0x00#8, qlen := e.qlen - 1#2 }

/-- Filling the decoder's slot (R31). -/
def fillSlot (b : Byte) (d : DecState) : DecState := { d with slot := b, slotValid := true }

/-- Emptying the decoder's slot (R31, R124). -/
def emptySlot (d : DecState) : DecState := { d with slot := 0x00#8, slotValid := false }

/-! ### Faults: entry, freeze, recovery -/

/-- `raise Fault(code)` on an encoder: only `fault` changes, the response is (0, 0x00) (R10, R146). -/
def raiseEnc (code : BitVec 3) (e : EncState) : EncState × Response := ({ e with fault := code }, Response.zero)

/-- `raise Fault(code)` on a decoder (R10, R146). -/
def raiseDec (code : BitVec 3) (d : DecState) : DecState × Response := ({ d with fault := code }, Response.zero)

/-- The faulted encoder ignores the command: no field changes, the response is (0, 0x00) (R100 line 2, R146). -/
def unlessFaultedEnc (f : EncState → EncState × Response) (e : EncState) : EncState × Response :=
  if e.fault = 0#3 then f e else (e, Response.zero)

/-- The faulted decoder ignores the command (R120 line 2, R146). -/
def unlessFaultedDec (f : DecState → DecState × Response) (d : DecState) : DecState × Response :=
  if d.fault = 0#3 then f d else (d, Response.zero)

/-- The reset of an encoder, the only way out of the faulted state (R102, R147, R161). -/
def resetEncoder (_ : EncState) : EncState × Response := (EncState.reset, Response.zero)

/-- The reset of a decoder (R122, R147, R161). -/
def resetDecoder (_ : DecState) : DecState × Response := (DecState.reset, Response.zero)

/-! ### One transaction on one instance -/

/-- Replace encoder instance `n`. -/
def setEnc (n : Nat) (x : EncInstance) (s : State) : State := { s with encs := s.encs.set n x }

/-- Replace decoder instance `n`. -/
def setDec (n : Nat) (x : DecInstance) (s : State) : State := { s with decs := s.decs.set n x }

/-- One step of encoder instance `n`: `f` maps the state before to the state after and the response, which the output
registers take (R6, R169); no other instance is read or written (R151). -/
def encTransaction (n : Nat) (f : EncState → EncState × Response) (s : State) : Host.Outcome State Fault Refusal :=
  match s.encs[n]? with
  | some x => .next (setEnc n { reg := (f x.reg).1, out := (f x.reg).2 } s)
  | none => .fault (.noSuchEncoder n)

/-- One step of decoder instance `n` (R6, R151). -/
def decTransaction (n : Nat) (f : DecState → DecState × Response) (s : State) : Host.Outcome State Fault Refusal :=
  match s.decs[n]? with
  | some x => .next (setDec n { reg := (f x.reg).1, out := (f x.reg).2 } s)
  | none => .fault (.noSuchDecoder n)

/-- An encoder command other than RESET: ignored while faulted (R100). -/
def encCommand (n : Nat) (f : EncState → EncState × Response) (s : State) : Host.Outcome State Fault Refusal :=
  encTransaction n (unlessFaultedEnc f) s

/-- A decoder command other than RESET: ignored while faulted (R120). -/
def decCommand (n : Nat) (f : DecState → DecState × Response) (s : State) : Host.Outcome State Fault Refusal :=
  decTransaction n (unlessFaultedDec f) s

/-! ### The mapper's input pins -/

/-- The host drives `enc_sym` (R72). -/
def driveEncSym (i : Sym) (s : State) : State := { s with mapper := { s.mapper with encSym := i } }

/-- The host drives `dec_char` (R72). -/
def driveDecChar (c : Byte) (s : State) : State := { s with mapper := { s.mapper with decChar := c } }

/-! ### The samples the host presents -/

/-- Present a sample before all others. -/
def presentFirst (p : PortInput) (s : State) : State := { s with inputs := p :: s.inputs }

/-- Take the oldest sample and decode it (R83); none if the host presents nothing. -/
def fetch (s : State) : Option (Instr × State) :=
  match s.inputs with
  | [] => none
  | p :: rest => some (decodeInput p, { s with inputs := rest })

/-- An edge at which the host presents nothing: every command port carries NOP (R83), so every instance responds
(0, 0x00) and nothing else changes. DESIGN CHOICE (log 3): on all ports at once. -/
def idleEdge (s : State) : State :=
  { s with
    encs := s.encs.map (fun x => { x with out := Response.zero })
    decs := s.decs.map (fun x => { x with out := Response.zero }) }

/-- What `withFetchWord` does: the port value of the table word is presented first; a word no port can carry changes
nothing (log 10). -/
def presentTableWord (nbits w : Nat) (s : State) : State :=
  match tableWordInput nbits w with
  | some p => presentFirst p s
  | none => s

end Sys2Proof.Machine
end

