-- ==== Sys2Proof/Machine/Lut.lean ====
section
/-! DEFINITION. The `6bit_lut_mapper` (`40_lut_mapper.md`): the two constant tables (`20_memory.md` R51, R52) by their
closed forms, the two lookups, and the lookups as instructions. -/

namespace Sys2Proof.Machine

/-- The pad character `=` (R51, D20; the code is from general knowledge, log 14). -/
def padChar : Byte := 0x3D#8

/-- ENC_ROM at an index, in the closed form of R51. -/
def encRom (i : Sym) : Byte :=
  if i.toNat ≤ 25 then BitVec.ofNat 8 (0x41 + i.toNat)
  else if i.toNat ≤ 51 then BitVec.ofNat 8 (0x61 + (i.toNat - 26))
  else if i.toNat ≤ 61 then BitVec.ofNat 8 (0x30 + (i.toNat - 52))
  else if i.toNat = 62 then 0x2D#8
  else 0x5F#8

/-- The entry `{pad, valid, sym[5:0]}` of DEC_ROM (R52). -/
def decEntry (pad valid : BitVec 1) (sym : Sym) : BitVec 8 := pad ++ valid ++ sym

/-- DEC_ROM at an index (R52), the valid entries in the closed form of R93. -/
def decRom (c : Byte) : BitVec 8 :=
  let k := c.toNat
  if 0x41 ≤ k ∧ k ≤ 0x5A then decEntry 0#1 1#1 (BitVec.ofNat 6 (k - 0x41))
  else if 0x61 ≤ k ∧ k ≤ 0x7A then decEntry 0#1 1#1 (BitVec.ofNat 6 (k - 0x61 + 26))
  else if 0x30 ≤ k ∧ k ≤ 0x39 then decEntry 0#1 1#1 (BitVec.ofNat 6 (k - 0x30 + 52))
  else if k = 0x2D then decEntry 0#1 1#1 62#6
  else if k = 0x5F then decEntry 0#1 1#1 63#6
  else if k = 0x3D then decEntry 1#1 0#1 0#6
  else decEntry 0#1 0#1 0#6

/-- The result of a decode lookup (R91). -/
structure DecLookup where
  sym : Sym
  valid : Bool
  pad : Bool
  deriving DecidableEq, Repr

/-- `LUT.ENC(i)` (R90). -/
def lutEnc (i : Sym) : Byte := encRom i

/-- `LUT.DEC(c)`: the three fields of the entry (R91). -/
def lutDec (c : Byte) : DecLookup :=
  let e := decRom c
  { sym := e.extractLsb' 0 6, valid := e.extractLsb' 6 1 == 1#1, pad := e.extractLsb' 7 1 == 1#1 }

/-- The output pin `enc_char[7:0]` (R72). -/
def encCharPin (s : State) : Byte := lutEnc s.mapper.encSym

/-- The output pins `dec_sym[5:0]`, `dec_valid`, `dec_pad` (R72). -/
def decPins (s : State) : DecLookup := lutDec s.mapper.decChar

/-- LUT.ENC: the symbol is driven on `enc_sym`, and `enc_char` shows its table entry (R90, R72). -/
def execLutEnc (i : Sym) (s : State) : Host.Outcome State Fault Refusal := .next (driveEncSym i s)

/-- LUT.DEC: the character is driven on `dec_char`, and the three output pins show its table entry (R91, R72). -/
def execLutDec (c : Byte) (s : State) : Host.Outcome State Fault Refusal := .next (driveDecChar c s)

end Sys2Proof.Machine
end

