-- ==== Sys2Proof/Machine/Operands.lean ====
section
/-! DEFINITION. Every operand expression of the hardware (`43_common_laws.md` R111), in the slice-and-concatenate form of
the command rules. `{a, b}` of the spec is `a ++ b`; `v[hi:lo]` is `v.extractLsb' lo (hi - lo + 1)` (`00_scope.md` R9). -/

namespace Sys2Proof.Machine

/-- R103 phase 0: `b[7:2]`. -/
def symPhase0 (b : Byte) : Sym := b.extractLsb' 2 6

/-- R103 phase 1: `{E.pending[1:0], b[7:4]}`. -/
def symPhase1 (pending b : Byte) : Sym := pending.extractLsb' 0 2 ++ b.extractLsb' 4 4

/-- R103 phase 2, first symbol: `{E.pending[3:0], b[7:6]}`. -/
def symPhase2 (pending b : Byte) : Sym := pending.extractLsb' 0 4 ++ b.extractLsb' 6 2

/-- R103 phase 2, second symbol: `b[5:0]`. -/
def symLast (b : Byte) : Sym := b.extractLsb' 0 6

/-- R105 phase 1: `{E.pending[1:0], 0b0000}`. -/
def symFlush1 (pending : Byte) : Sym := pending.extractLsb' 0 2 ++ 0b0000#4

/-- R105 phase 2: `{E.pending[3:0], 0b00}`. -/
def symFlush2 (pending : Byte) : Sym := pending.extractLsb' 0 4 ++ 0b00#2

/-- R123 phase 1: `{D.pending_bits[5:0], v[5:4]}`. -/
def bytePhase1 (pendingBits v : Sym) : Byte := pendingBits ++ v.extractLsb' 4 2

/-- R123 phase 2: `{D.pending_bits[3:0], v[5:2]}`. -/
def bytePhase2 (pendingBits v : Sym) : Byte := pendingBits.extractLsb' 0 4 ++ v.extractLsb' 2 4

/-- R123 phase 3: `{D.pending_bits[1:0], v[5:0]}`. -/
def bytePhase3 (pendingBits v : Sym) : Byte := pendingBits.extractLsb' 0 2 ++ v

end Sys2Proof.Machine
end

