-- ==== Sys2Proof/Machine/Decoder.lean ====
section
/-! DEFINITION. The decoder's commands (`42_decoder_fsm.md` R120 to R126). Each is a function from the instance's state to
its next state and response, run by `decCommand` (which ignores it while faulted, R120 line 2). -/

namespace Sys2Proof.Machine

/-- R121. -/
def decNopStep (d : DecState) : DecState × Response := (d, Response.zero)

/-- R123, an unsuppressed alphabet character of symbol value `v`: phase 0 buffers it, phases 1 to 3 complete a byte. -/
def decAccept (v : Sym) (d : DecState) : DecState × Response :=
  if d.phase = 0#2 then
    ({ d with phase := nextDecPhase d.phase, pendingBits := v }, { count := 0#2, dout := 0x00#8 })
  else if d.phase = 1#2 then
    ({ fillSlot (bytePhase1 d.pendingBits v) d with phase := nextDecPhase d.phase, pendingBits := v },
      { count := 1#2, dout := 0x00#8 })
  else if d.phase = 2#2 then
    ({ fillSlot (bytePhase2 d.pendingBits v) d with phase := nextDecPhase d.phase, pendingBits := v },
      { count := 1#2, dout := 0x00#8 })
  else
    ({ fillSlot (bytePhase3 d.pendingBits v) d with phase := nextDecPhase d.phase, pendingBits := v },
      { count := 1#2, dout := 0x00#8 })

/-- R123. -/
def decIngestStep (c : Byte) (d : DecState) : DecState × Response :=
  if !decActive d then raiseDec misuseOrder d
  else if d.slotValid then raiseDec misuseUndrained d
  else if !(lutDec c).valid && !(lutDec c).pad then raiseDec decodeErrorCode d
  else if (lutDec c).pad then
    ({ d with phase := nextDecPhase d.phase, paddingSeen := true }, { count := 0#2, dout := 0x00#8 })
  else if d.paddingSeen then
    ({ d with phase := nextDecPhase d.phase }, { count := 0#2, dout := 0x00#8 })
  else decAccept (lutDec c).sym d

/-- R124. -/
def decGetcStep (d : DecState) : DecState × Response :=
  if !d.slotValid then raiseDec misuseEmptyGetc d
  else (emptySlot d, { count := 0#2, dout := d.slot })

/-- R125. -/
def decFinishStep (d : DecState) : DecState × Response :=
  if !decActive d then raiseDec misuseOrder d
  else
    ({ d with phase := 0#2, pendingBits := 0#6, stage := decStageFinished },
      { count := slotCount d, dout := 0x00#8 })

/-- R126. -/
def decIllegalStep (d : DecState) : DecState × Response := raiseDec illegalCmd d

/-! ### The meanings -/

/-- DEC.NOP (R121). -/
def execDecNop (n : Nat) (s : State) : Host.Outcome State Fault Refusal := decCommand n decNopStep s

/-- DEC.RESET: executes whatever `D.fault` is (R120 line 1, R122). -/
def execDecReset (n : Nat) (s : State) : Host.Outcome State Fault Refusal := decTransaction n resetDecoder s

/-- DEC.INGEST c (R123). -/
def execDecIngest (n : Nat) (c : Byte) (s : State) : Host.Outcome State Fault Refusal := decCommand n (decIngestStep c) s

/-- DEC.GETC (R124). -/
def execDecGetc (n : Nat) (s : State) : Host.Outcome State Fault Refusal := decCommand n decGetcStep s

/-- DEC.FINISH (R125). -/
def execDecFinish (n : Nat) (s : State) : Host.Outcome State Fault Refusal := decCommand n decFinishStep s

/-- DEC.ILLEGAL.101: the encoder's PAD opcode is illegal on the decoder (R126). -/
def execDecIllegal101 (n : Nat) (_w : CmdWord) (s : State) : Host.Outcome State Fault Refusal :=
  decCommand n decIllegalStep s

/-- DEC.ILLEGAL.11x (R126). -/
def execDecIllegal11x (n : Nat) (_w : CmdWord) (s : State) : Host.Outcome State Fault Refusal :=
  decCommand n decIllegalStep s

end Sys2Proof.Machine
end

