-- ==== Sys2Proof/Machine/Encoder.lean ====
section
/-! DEFINITION. The encoder's commands (`41_encoder_fsm.md` R100 to R107). Each is a function from the instance's state
to its next state and response, run by `encCommand` (which ignores it while faulted, R100 line 2). A `case` on `phase`
with no arm (phase 3, unreachable) raises ILLEGAL_CMD (`70_reset_and_hazards.md` R162, log 8). -/

namespace Sys2Proof.Machine

/-- R101. -/
def encNopStep (e : EncState) : EncState × Response := (e, Response.zero)

/-- R103. -/
def encIngestStep (b : Byte) (e : EncState) : EncState × Response :=
  if !encActive e then raiseEnc misuseOrder e
  else if !encDrained e then raiseEnc misuseUndrained e
  else if e.phase = 0#2 then
    ({ enq (lutEnc (symPhase0 b)) e with phase := 1#2, pending := b }, { count := 1#2, dout := 0x00#8 })
  else if e.phase = 1#2 then
    ({ enq (lutEnc (symPhase1 e.pending b)) e with phase := 2#2, pending := b }, { count := 1#2, dout := 0x00#8 })
  else if e.phase = 2#2 then
    ({ enq (lutEnc (symLast b)) (enq (lutEnc (symPhase2 e.pending b)) e) with phase := 0#2, pending := b },
      { count := 2#2, dout := 0x00#8 })
  else raiseEnc illegalCmd e

/-- R104. -/
def encGetcStep (e : EncState) : EncState × Response :=
  if encDrained e then raiseEnc misuseEmptyGetc e
  else (deq e, { count := 0#2, dout := e.q0 })

/-- R105. -/
def encFinishStep (e : EncState) : EncState × Response :=
  if !encActive e then raiseEnc misuseOrder e
  else if !encDrained e then raiseEnc misuseUndrained e
  else if e.phase = 0#2 then
    ({ e with pending := 0x00#8, stage := stageFinished }, { count := 0#2, dout := 0x00#8 })
  else if e.phase = 1#2 then
    ({ enq (lutEnc (symFlush1 e.pending)) e with pending := 0x00#8, stage := stageFinished },
      { count := 1#2, dout := 0x00#8 })
  else if e.phase = 2#2 then
    ({ enq (lutEnc (symFlush2 e.pending)) e with pending := 0x00#8, stage := stageFinished },
      { count := 1#2, dout := 0x00#8 })
  else raiseEnc illegalCmd e

/-- R106. -/
def encPadStep (e : EncState) : EncState × Response :=
  if !encFinished e then raiseEnc misuseOrder e
  else if !encDrained e then raiseEnc misuseUndrained e
  else if e.phase = 0#2 then
    ({ e with phase := 0#2, stage := stagePadded }, { count := 0#2, dout := 0x00#8 })
  else if e.phase = 1#2 then
    ({ enq padChar (enq padChar e) with phase := 0#2, stage := stagePadded }, { count := 2#2, dout := 0x00#8 })
  else if e.phase = 2#2 then
    ({ enq padChar e with phase := 0#2, stage := stagePadded }, { count := 1#2, dout := 0x00#8 })
  else raiseEnc illegalCmd e

/-- R107. -/
def encIllegalStep (e : EncState) : EncState × Response := raiseEnc illegalCmd e

/-! ### The meanings -/

/-- ENC.NOP (R101). -/
def execEncNop (n : Nat) (s : State) : Host.Outcome State Fault Refusal := encCommand n encNopStep s

/-- ENC.RESET: executes whatever `E.fault` is (R100 line 1, R102). -/
def execEncReset (n : Nat) (s : State) : Host.Outcome State Fault Refusal := encTransaction n resetEncoder s

/-- ENC.INGEST b (R103). -/
def execEncIngest (n : Nat) (b : Byte) (s : State) : Host.Outcome State Fault Refusal := encCommand n (encIngestStep b) s

/-- ENC.GETC (R104). -/
def execEncGetc (n : Nat) (s : State) : Host.Outcome State Fault Refusal := encCommand n encGetcStep s

/-- ENC.FINISH (R105). -/
def execEncFinish (n : Nat) (s : State) : Host.Outcome State Fault Refusal := encCommand n encFinishStep s

/-- ENC.PAD (R106). -/
def execEncPad (n : Nat) (s : State) : Host.Outcome State Fault Refusal := encCommand n encPadStep s

/-- ENC.ILLEGAL: the word itself has no effect (R107). -/
def execEncIllegal (n : Nat) (_w : CmdWord) (s : State) : Host.Outcome State Fault Refusal := encCommand n encIllegalStep s

end Sys2Proof.Machine
end

