-- ==== Sys2Proof/Machine/Dispatch.lean ====
section
/-! DEFINITION. One arm per instruction: what each one does. -/

namespace Sys2Proof.Machine

def exec (i : Instr) (s : State) : Host.Outcome State Fault Refusal :=
  match i with
  | .encNop n => Sys2Proof.Machine.execEncNop n s
  | .encReset n => Sys2Proof.Machine.execEncReset n s
  | .encIngest n b => Sys2Proof.Machine.execEncIngest n b s
  | .encGetc n => Sys2Proof.Machine.execEncGetc n s
  | .encFinish n => Sys2Proof.Machine.execEncFinish n s
  | .encPad n => Sys2Proof.Machine.execEncPad n s
  | .encIllegal n w => Sys2Proof.Machine.execEncIllegal n w s
  | .decNop n => Sys2Proof.Machine.execDecNop n s
  | .decReset n => Sys2Proof.Machine.execDecReset n s
  | .decIngest n c => Sys2Proof.Machine.execDecIngest n c s
  | .decGetc n => Sys2Proof.Machine.execDecGetc n s
  | .decFinish n => Sys2Proof.Machine.execDecFinish n s
  | .decIllegal101 n w => Sys2Proof.Machine.execDecIllegal101 n w s
  | .decIllegal11x n w => Sys2Proof.Machine.execDecIllegal11x n w s
  | .lutEnc sym => Sys2Proof.Machine.execLutEnc sym s
  | .lutDec c => Sys2Proof.Machine.execLutDec c s

end Sys2Proof.Machine
end

