-- ==== Sys2Proof/Machine/Step.lean ====
section
/-! DEFINITION. One step: the oldest sample the host presents is decoded and executed (`30_encoding.md` R83, `20_memory.md`
R60); when it presents nothing, the ports carry NOP (log 3). -/

namespace Sys2Proof.Machine

def step (s : State) : Host.Outcome State Fault Refusal :=
  match fetch s with
  | some (i, s') => exec i s'
  | none => .next (idleEdge s)

/-- `s` with the instruction whose table bits are `w` presented as the very next sample (log 10). -/
def State.withFetchWord (s : State) (nbits w : Nat) : State := presentTableWord nbits w s

end Sys2Proof.Machine
end

