-- ==== Sys2Proof/Machine/Asm.lean ====
section
/-! DEFINITION. Assembler and disassembler text (`30_encoding.md` R80, R82). A line is a list of characters. The spec fixes
the mnemonics, the forms of an operand and what is printed; the details it leaves open (blanks, digits' case, number
of digits) are DESIGN CHOICE (log 18). -/

namespace Sys2Proof.Machine

/-- A line of text. -/
abbrev Text := List Char

/-- Which command port a word is for (R76). -/
inductive CmdPort where
  | enc
  | dec
  deriving DecidableEq, Repr

/-- The instruction of a word on instance 0 of a port; the text names no instance. -/
def wordInstr (p : CmdPort) (w : CmdWord) : Instr :=
  match p with
  | .enc => decodeEncWord 0 w
  | .dec => decodeDecWord 0 w

/-! ### Disassembling (R82) -/

/-- One hexadecimal digit, upper case. -/
def hexDigit (d : Nat) : Char := if d < 10 then Char.ofNat (48 + d) else Char.ofNat (55 + d)

/-- Two hexadecimal digits of a byte after `0x`. -/
def hex2 (v : Nat) : Text := ['0', 'x', hexDigit (v / 16 % 16), hexDigit (v % 16)]

/-- Three hexadecimal digits of a word after `0x`. -/
def hex3 (v : Nat) : Text := ['0', 'x', hexDigit (v / 256 % 16), hexDigit (v / 16 % 16), hexDigit (v % 16)]

/-! The mnemonics as they are printed (R75, R76); both reserved decoder rows print as `DEC.ILLEGAL` (R77, R82). -/

/-- `ENC.NOP`. -/
def txtEncNop : Text := ['E', 'N', 'C', '.', 'N', 'O', 'P']
/-- `ENC.RESET`. -/
def txtEncReset : Text := ['E', 'N', 'C', '.', 'R', 'E', 'S', 'E', 'T']
/-- `ENC.INGEST`. -/
def txtEncIngest : Text := ['E', 'N', 'C', '.', 'I', 'N', 'G', 'E', 'S', 'T']
/-- `ENC.GETC`. -/
def txtEncGetc : Text := ['E', 'N', 'C', '.', 'G', 'E', 'T', 'C']
/-- `ENC.FINISH`. -/
def txtEncFinish : Text := ['E', 'N', 'C', '.', 'F', 'I', 'N', 'I', 'S', 'H']
/-- `ENC.PAD`. -/
def txtEncPad : Text := ['E', 'N', 'C', '.', 'P', 'A', 'D']
/-- `ENC.ILLEGAL`. -/
def txtEncIllegal : Text := ['E', 'N', 'C', '.', 'I', 'L', 'L', 'E', 'G', 'A', 'L']
/-- `DEC.NOP`. -/
def txtDecNop : Text := ['D', 'E', 'C', '.', 'N', 'O', 'P']
/-- `DEC.RESET`. -/
def txtDecReset : Text := ['D', 'E', 'C', '.', 'R', 'E', 'S', 'E', 'T']
/-- `DEC.INGEST`. -/
def txtDecIngest : Text := ['D', 'E', 'C', '.', 'I', 'N', 'G', 'E', 'S', 'T']
/-- `DEC.GETC`. -/
def txtDecGetc : Text := ['D', 'E', 'C', '.', 'G', 'E', 'T', 'C']
/-- `DEC.FINISH`. -/
def txtDecFinish : Text := ['D', 'E', 'C', '.', 'F', 'I', 'N', 'I', 'S', 'H']
/-- `DEC.ILLEGAL`. -/
def txtDecIllegal : Text := ['D', 'E', 'C', '.', 'I', 'L', 'L', 'E', 'G', 'A', 'L']
/-- A lookup is no command word and prints as R11 names it. -/
def txtLutEnc : Text := ['L', 'U', 'T', '.', 'E', 'N', 'C']
/-- A lookup is no command word and prints as R11 names it. -/
def txtLutDec : Text := ['L', 'U', 'T', '.', 'D', 'E', 'C']

/-- The printed mnemonic of an instruction (R82). -/
def printedMnemonic : Instr → Text
  | .encNop _ => txtEncNop
  | .encReset _ => txtEncReset
  | .encIngest _ _ => txtEncIngest
  | .encGetc _ => txtEncGetc
  | .encFinish _ => txtEncFinish
  | .encPad _ => txtEncPad
  | .encIllegal _ _ => txtEncIllegal
  | .decNop _ => txtDecNop
  | .decReset _ => txtDecReset
  | .decIngest _ _ => txtDecIngest
  | .decGetc _ => txtDecGetc
  | .decFinish _ => txtDecFinish
  | .decIllegal101 _ _ => txtDecIllegal
  | .decIllegal11x _ _ => txtDecIllegal
  | .lutEnc _ => txtLutEnc
  | .lutDec _ => txtLutDec

/-- The printed operand: the byte of INGEST, the word of a reserved word, nothing else (R82). -/
def printedOperand : Instr → Text
  | .encIngest _ b => ' ' :: hex2 b.toNat
  | .decIngest _ c => ' ' :: hex2 c.toNat
  | .encIllegal _ w => ' ' :: hex3 w.toNat
  | .decIllegal101 _ w => ' ' :: hex3 w.toNat
  | .decIllegal11x _ w => ' ' :: hex3 w.toNat
  | _ => []

/-- The disassembler (R82). -/
def disassemble (p : CmdPort) (w : CmdWord) : Text :=
  printedMnemonic (wordInstr p w) ++ printedOperand (wordInstr p w)

/-! ### Assembling (R80) -/

/-- The value of a digit in base 16; none for another character. -/
def digitValue (c : Char) : Option Nat :=
  let k := c.toNat
  if 48 ≤ k ∧ k ≤ 57 then some (k - 48)
  else if 65 ≤ k ∧ k ≤ 70 then some (k - 55)
  else if 97 ≤ k ∧ k ≤ 102 then some (k - 87)
  else none

/-- The longest run of digits below `base`, added to `acc`, and the rest of the text. -/
def takeDigits (base : Nat) (acc : Nat) : Text → Nat × Text
  | [] => (acc, [])
  | c :: cs =>
    match digitValue c with
    | some d => if d < base then takeDigits base (acc * base + d) cs else (acc, c :: cs)
    | none => (acc, c :: cs)

/-- A number in `base` with at least one digit. -/
def takeNumber (base : Nat) : Text → Option (Nat × Text)
  | [] => none
  | c :: cs =>
    match digitValue c with
    | some d => if d < base then some (takeDigits base d cs) else none
    | none => none

/-- An operand: `0x66`, `102`, or a quoted character meaning its code (R80). DESIGN CHOICE (log 18): a quoted character
outside ASCII has no code by R51; its Unicode code point is taken, so that code points 0x80 to 0xFF assemble as INGEST
operands and greater ones do not (`assembleForm`). -/
def takeOperand : Text → Option (Nat × Text)
  | '0' :: 'x' :: cs => takeNumber 16 cs
  | '\'' :: c :: '\'' :: cs => some (c.toNat, cs)
  | cs => takeNumber 10 cs

/-- Skip blanks. -/
def skipBlanks : Text → Text
  | ' ' :: cs => skipBlanks cs
  | cs => cs

/-- The line is at its end: nothing, or a comment, is left (R80). -/
def atEnd (t : Text) : Bool :=
  match skipBlanks t with
  | [] => true
  | ';' :: _ => true
  | _ => false

/-- The characters of a mnemonic, and the rest. -/
def takeMnemonic : Text → Text × Text
  | [] => ([], [])
  | c :: cs => if c = ' ' ∨ c = ';' then ([], c :: cs) else ((c :: (takeMnemonic cs).1), (takeMnemonic cs).2)

/-- What a mnemonic asks for: no operand, a byte, or a whole reserved word. -/
inductive AsmForm where
  | plain (p : CmdPort) (w : CmdWord)
  | ingest (p : CmdPort)
  | illegal (p : CmdPort)
  deriving DecidableEq, Repr

/-- The mnemonics of R75, R76 and the two printed forms of reserved words (R82). -/
def asmForms : List (Text × AsmForm) :=
  [(txtEncNop, .plain .enc 0x000#11), (txtEncReset, .plain .enc 0x100#11),
   (txtEncIngest, .ingest .enc), (txtEncGetc, .plain .enc 0x300#11),
   (txtEncFinish, .plain .enc 0x400#11), (txtEncPad, .plain .enc 0x500#11),
   (txtEncIllegal, .illegal .enc)] ++
  [(txtDecNop, .plain .dec 0x000#11), (txtDecReset, .plain .dec 0x100#11),
   (txtDecIngest, .ingest .dec), (txtDecGetc, .plain .dec 0x300#11),
   (txtDecFinish, .plain .dec 0x400#11), (txtDecIllegal, .illegal .dec)]

/-- Which words of a port are reserved (R78). -/
def reservedOn (p : CmdPort) (w : CmdWord) : Bool :=
  match p with
  | .enc => reserved11x w
  | .dec => reserved101 w || reserved11x w

/-- Assemble the rest of a line after its mnemonic. -/
def assembleForm (f : AsmForm) (rest : Text) : Option (CmdPort × CmdWord) :=
  match f with
  | .plain p w => if atEnd rest then some (p, w) else none
  | .ingest p =>
    match takeOperand (skipBlanks rest) with
    | some (v, tail) => if v < 256 ∧ atEnd tail then some (p, cmdWord 0b010#3 (BitVec.ofNat 8 v)) else none
    | none => none
  | .illegal p =>
    match takeOperand (skipBlanks rest) with
    | some (v, tail) =>
      if v < 2048 ∧ atEnd tail ∧ reservedOn p (BitVec.ofNat 11 v) then some (p, BitVec.ofNat 11 v) else none
    | none => none

/-- The assembler: one command per line (R80). -/
def assemble (line : Text) : Option (CmdPort × CmdWord) :=
  match asmForms.lookup (takeMnemonic (skipBlanks line)).1 with
  | some f => assembleForm f (takeMnemonic (skipBlanks line)).2
  | none => none

/-- The canonical form of a word (R74, R82): the ignored operand of a command becomes 0x00; a reserved word is kept as it is
(DESIGN CHOICE, log 11). -/
def canonicalWord (p : CmdPort) (w : CmdWord) : CmdWord :=
  if opField w = 0b010#3 ∨ reservedOn p w then w else cmdWord (opField w) 0x00#8

end Sys2Proof.Machine
end

