-- ==== Sys2Proof/Machine/Procedures.lean ====
section
/-! DEFINITION. The host procedures and pseudo-instructions (`30_encoding.md` R81, `70_reset_and_hazards.md` R170): loops of
the host that read the counts the machine returns. They are no commands of the hardware; each command they issue goes
through encoding, the port and `step` (log 17). `none` and `stopped` mean that there is no such instance. -/

namespace Sys2Proof.Machine

/-- Issue one command and take one step: the canonical port value is presented first (R83). -/
def issue (i : Instr) (s : State) : Option State := nextState? (step (presentFirst (encodeInput i) s))

/-- One command on encoder instance `n`, and the response on its output pins (R70, R79). -/
def issueEnc (n : Nat) (i : Instr) (s : State) : Option (Response × State) :=
  match issue i s with
  | none => none
  | some t =>
    match t.encs[n]? with
    | none => none
    | some x => some (x.out, t)

/-- One command on decoder instance `n`, the response and the fault pin (R71, R79). -/
def issueDec (n : Nat) (i : Instr) (s : State) : Option (Response × BitVec 3 × State) :=
  match issue i s with
  | none => none
  | some t =>
    match t.decs[n]? with
    | none => none
    | some x => some (x.out, x.reg.fault, t)

/-- `ENC.DRAIN k` (R81): `k` times ENC.GETC, collecting `dout`. -/
def encDrain (n : Nat) : Nat → State → Option (List Byte × State)
  | 0, s => some ([], s)
  | k + 1, s =>
    match issueEnc n (.encGetc n) s with
    | none => none
    | some (r, s1) =>
      match encDrain n k s1 with
      | none => none
      | some (out, s2) => some (r.dout :: out, s2)

/-- `DEC.DRAIN k` (R81): `k` times DEC.GETC, collecting `dout`. -/
def decDrain (n : Nat) : Nat → State → Option (List Byte × State)
  | 0, s => some ([], s)
  | k + 1, s =>
    match issueDec n (.decGetc n) s with
    | none => none
    | some (r, _, s1) =>
      match decDrain n k s1 with
      | none => none
      | some (out, s2) => some (r.dout :: out, s2)

/-- Issue an encoder command and drain the count it returns (R164). -/
def encIssueDrain (n : Nat) (i : Instr) (s : State) : Option (List Byte × State) :=
  match issueEnc n i s with
  | none => none
  | some (r, s1) => encDrain n r.count.toNat s1

/-- The ingest loop of ENCODE (R170). -/
def encFeed (n : Nat) : List Byte → State → Option (List Byte × State)
  | [], s => some ([], s)
  | b :: bs, s =>
    match encIssueDrain n (.encIngest n b) s with
    | none => none
    | some (o1, s1) =>
      match encFeed n bs s1 with
      | none => none
      | some (o2, s2) => some (o1 ++ o2, s2)

/-- `ENCODE(s)`, the pseudo-instruction ENC.ENCODE (R81, R170): the characters collected and the state at the end. -/
def runEncode (n : Nat) (bytes : List Byte) (s : State) : Option (List Byte × State) :=
  match issueEnc n (.encReset n) s with
  | none => none
  | some (_, s0) =>
    match encFeed n bytes s0 with
    | none => none
    | some (o1, s1) =>
      match encIssueDrain n (.encFinish n) s1 with
      | none => none
      | some (o2, s2) => some (o1 ++ o2, s2)

/-- `ENCODE_PADDED(s)`, the pseudo-instruction ENC.ENCODE_PADDED (R81, R170). -/
def runEncodePadded (n : Nat) (bytes : List Byte) (s : State) : Option (List Byte × State) :=
  match runEncode n bytes s with
  | none => none
  | some (o1, s1) =>
    match encIssueDrain n (.encPad n) s1 with
    | none => none
    | some (o2, s2) => some (o1 ++ o2, s2)

/-- How DECODE ends (R170). -/
inductive DecodeRun where
  /-- The bytes collected and the state at the end. -/
  | done (out : List Byte) (s : State)
  /-- A DEC.INGEST faulted: no output, what was collected is discarded. -/
  | failed (s : State)
  /-- There is no such decoder instance. -/
  | stopped
  deriving DecidableEq, Repr

/-- The ingest loop of DECODE (R170), stopping at the first fault. -/
def decFeed (n : Nat) : List Byte → State → DecodeRun
  | [], s => .done [] s
  | c :: cs, s =>
    match issueDec n (.decIngest n c) s with
    | none => .stopped
    | some (r, f, s1) =>
      if f ≠ 0#3 then .failed s1
      else
        match decDrain n r.count.toNat s1 with
        | none => .stopped
        | some (o1, s2) =>
          match decFeed n cs s2 with
          | .done o2 s3 => .done (o1 ++ o2) s3
          | .failed s3 => .failed s3
          | .stopped => .stopped

/-- `DECODE(t)`, the pseudo-instruction DEC.DECODE (R81, R170). -/
def runDecode (n : Nat) (chars : List Byte) (s : State) : DecodeRun :=
  match issueDec n (.decReset n) s with
  | none => .stopped
  | some (_, _, s0) =>
    match decFeed n chars s0 with
    | .failed s1 => .failed s1
    | .stopped => .stopped
    | .done o1 s1 =>
      match issueDec n (.decFinish n) s1 with
      | none => .stopped
      | some (r, _, s2) =>
        match decDrain n r.count.toNat s2 with
        | none => .stopped
        | some (o2, s3) => .done (o1 ++ o2) s3

end Sys2Proof.Machine
end

