-- ==== Sys2Proof/Safety.lean ====
section
/-! DEFINITION. The terms the claims use: what a step may change, the invariants of `10_state.md` R26 and R34, the end of a
session (`70_reset_and_hazards.md` R171), the source's shift-and-mask forms (`43_common_laws.md` R111), the printed tables
(`20_memory.md` R51, R52) and the encoding of a whole byte sequence (`41_encoder_fsm.md` R108, R105). -/

namespace Sys2Proof.Machine

/-! ### What a step changes -/

/-- From `s` to `t` only encoder instance `n` changed, to `y`. -/
def EncOnly (s t : State) (n : Nat) (y : EncInstance) : Prop :=
  t.encs[n]? = some y ∧ (∀ m, m ≠ n → t.encs[m]? = s.encs[m]?) ∧ t.encs.length = s.encs.length ∧
    t.decs = s.decs ∧ t.mapper = s.mapper ∧ t.inputs = s.inputs

/-- From `s` to `t` only decoder instance `n` changed, to `y`. -/
def DecOnly (s t : State) (n : Nat) (y : DecInstance) : Prop :=
  t.decs[n]? = some y ∧ (∀ m, m ≠ n → t.decs[m]? = s.decs[m]?) ∧ t.decs.length = s.decs.length ∧
    t.encs = s.encs ∧ t.mapper = s.mapper ∧ t.inputs = s.inputs

/-- `i` completes in `s`, leaves encoder instance `n` with state `e` and the response `(count, dout)`, and changes nothing
else. -/
def EncGoes (i : Instr) (s : State) (n : Nat) (e : EncState) (count : BitVec 2) (dout : Byte) : Prop :=
  ∃ t, exec i s = .next t ∧ EncOnly s t n { reg := e, out := { count := count, dout := dout } }

/-- `i` completes in `s`, leaves decoder instance `n` with state `d` and the response `(count, dout)`, and changes nothing
else. -/
def DecGoes (i : Instr) (s : State) (n : Nat) (d : DecState) (count : BitVec 2) (dout : Byte) : Prop :=
  ∃ t, exec i s = .next t ∧ DecOnly s t n { reg := d, out := { count := count, dout := dout } }

/-- The part of the machine an instruction acts on. -/
inductive UnitId where
  | enc (n : Nat)
  | dec (n : Nat)
  | encSymPort
  | decCharPort
  deriving DecidableEq, Repr

/-- The unit whose port the instruction arrives on (R72, R76). -/
def unitOf : Instr → UnitId
  | .encNop n => .enc n
  | .encReset n => .enc n
  | .encIngest n _ => .enc n
  | .encGetc n => .enc n
  | .encFinish n => .enc n
  | .encPad n => .enc n
  | .encIllegal n _ => .enc n
  | .decNop n => .dec n
  | .decReset n => .dec n
  | .decIngest n _ => .dec n
  | .decGetc n => .dec n
  | .decFinish n => .dec n
  | .decIllegal101 n _ => .dec n
  | .decIllegal11x n _ => .dec n
  | .lutEnc _ => .encSymPort
  | .lutDec _ => .decCharPort

/-! ### Invariants -/

/-- A member of the alphabet (R51, R93). -/
def isAlphabet (c : Byte) : Bool := (lutDec c).valid

/-- A member of the 65-symbol set: the alphabet and `=` (R55). -/
def inCodeSet (c : Byte) : Bool := isAlphabet c || c == padChar

/-- R26 (a) to (f), for one encoder state. -/
abbrev EncInv (e : EncState) : Prop :=
  (e.phase.toNat ≤ 2 ∧ e.qlen.toNat ≤ 2 ∧ e.stage.toNat ≤ 2 ∧ e.fault ∈ [0#3, 1#3, 2#3, 3#3, 5#3]) ∧
  ((e.qlen = 0#2 → e.q0 = 0x00#8 ∧ e.q1 = 0x00#8) ∧ (e.qlen = 1#2 → e.q1 = 0x00#8)) ∧
  ((1 ≤ e.qlen.toNat → inCodeSet e.q0 = true) ∧ (2 ≤ e.qlen.toNat → inCodeSet e.q1 = true)) ∧
  (e.stage ≠ 0#2 → e.pending = 0x00#8) ∧
  (e.stage = 2#2 → e.phase = 0#2) ∧
  ((1 ≤ e.qlen.toNat ∧ e.q0 = padChar → e.stage = 2#2) ∧ (2 ≤ e.qlen.toNat ∧ e.q1 = padChar → e.stage = 2#2))

/-- What R110 adds for the occupied queue: one character at most in stage FINISHED, and only `=` in stage PADDED. -/
abbrev EncQueueInv (e : EncState) : Prop :=
  (e.stage = 1#2 → e.qlen.toNat ≤ 1) ∧
  (e.stage = 2#2 → (1 ≤ e.qlen.toNat → e.q0 = padChar) ∧ (2 ≤ e.qlen.toNat → e.q1 = padChar))

/-- R34 (a), (b), (d), for one decoder state ((c) is about later steps). -/
abbrev DecInv (d : DecState) : Prop :=
  d.fault.toNat ≤ 5 ∧ (d.slotValid = false → d.slot = 0x00#8) ∧
  (d.stage = 1#1 → d.phase = 0#2 ∧ d.pendingBits = 0#6)

/-- Every encoder instance meets R26. -/
abbrev EncsInv (s : State) : Prop := ∀ x ∈ s.encs, EncInv x.reg

/-- Every encoder instance meets R26 and R110's remark on occupied queues. -/
abbrev EncsQueueInv (s : State) : Prop := ∀ x ∈ s.encs, EncInv x.reg ∧ EncQueueInv x.reg

/-- Every decoder instance meets R34. -/
abbrev DecsInv (s : State) : Prop := ∀ x ∈ s.decs, DecInv x.reg

/-! ### The end of a session (R171) -/

/-- An encoding session has ended successfully. -/
abbrev encSessionEnded (e : EncState) : Prop := e.fault = 0#3 ∧ e.qlen = 0#2 ∧ (e.stage = 1#2 ∨ e.stage = 2#2)

/-- A decoding session has ended successfully. -/
abbrev decSessionEnded (d : DecState) : Prop := d.fault = 0#3 ∧ d.slotValid = false ∧ d.stage = 1#1

/-! ### The source's shift-and-mask forms (R56, R111, R127) -/

/-- `b0>>2`. -/
def srcSym0 (b0 : Byte) : Sym := (b0 >>> 2).setWidth 6
/-- `((b0&3)<<4)|(b1>>4)`. -/
def srcSym1 (b0 b1 : Byte) : Sym := (((b0 &&& 3#8) <<< 4) ||| (b1 >>> 4)).setWidth 6
/-- `((b1&0xf)<<2)|(b2>>6)`. -/
def srcSym2 (b1 b2 : Byte) : Sym := (((b1 &&& 0xf#8) <<< 2) ||| (b2 >>> 6)).setWidth 6
/-- `b2&0x3f`. -/
def srcSym3 (b2 : Byte) : Sym := (b2 &&& 0x3f#8).setWidth 6
/-- `(v0 << 2) | (v1 >> 4)`. -/
def srcByte1 (v0 v1 : Sym) : Byte := (v0.setWidth 8 <<< 2) ||| (v1.setWidth 8 >>> 4)
/-- `((v1 & 0xf) << 4) | (v2 >> 2)`. -/
def srcByte2 (v1 v2 : Sym) : Byte := ((v1.setWidth 8 &&& 0xf#8) <<< 4) ||| (v2.setWidth 8 >>> 2)
/-- `((v2 & 3) << 6) | v3`. -/
def srcByte3 (v2 v3 : Sym) : Byte := ((v2.setWidth 8 &&& 3#8) <<< 6) ||| v3.setWidth 8

/-! ### The printed tables -/

/-- The 64 codes of R51's table, by value. -/
def encRomPrinted : List Byte :=
  [0x41, 0x42, 0x43, 0x44, 0x45, 0x46, 0x47, 0x48, 0x49, 0x4A, 0x4B, 0x4C, 0x4D, 0x4E, 0x4F, 0x50] ++
  [0x51, 0x52, 0x53, 0x54, 0x55, 0x56, 0x57, 0x58, 0x59, 0x5A, 0x61, 0x62, 0x63, 0x64, 0x65, 0x66] ++
  [0x67, 0x68, 0x69, 0x6A, 0x6B, 0x6C, 0x6D, 0x6E, 0x6F, 0x70, 0x71, 0x72, 0x73, 0x74, 0x75, 0x76] ++
  [0x77, 0x78, 0x79, 0x7A, 0x30, 0x31, 0x32, 0x33, 0x34, 0x35, 0x36, 0x37, 0x38, 0x39, 0x2D, 0x5F]

/-- The 256 entries of R52's grid, by code: rows 0x to 7x as printed, then the 128 zero entries. -/
def decRomPrinted : List Byte :=
  List.replicate 32 0x00 ++
  [0x00, 0x00, 0x00, 0x00, 0x00, 0x00, 0x00, 0x00, 0x00, 0x00, 0x00, 0x00, 0x00, 0x7E, 0x00, 0x00] ++
  [0x74, 0x75, 0x76, 0x77, 0x78, 0x79, 0x7A, 0x7B, 0x7C, 0x7D, 0x00, 0x00, 0x00, 0x80, 0x00, 0x00] ++
  [0x00, 0x40, 0x41, 0x42, 0x43, 0x44, 0x45, 0x46, 0x47, 0x48, 0x49, 0x4A, 0x4B, 0x4C, 0x4D, 0x4E] ++
  [0x4F, 0x50, 0x51, 0x52, 0x53, 0x54, 0x55, 0x56, 0x57, 0x58, 0x59, 0x00, 0x00, 0x00, 0x00, 0x7F] ++
  [0x00, 0x5A, 0x5B, 0x5C, 0x5D, 0x5E, 0x5F, 0x60, 0x61, 0x62, 0x63, 0x64, 0x65, 0x66, 0x67, 0x68] ++
  [0x69, 0x6A, 0x6B, 0x6C, 0x6D, 0x6E, 0x6F, 0x70, 0x71, 0x72, 0x73, 0x00, 0x00, 0x00, 0x00, 0x00] ++
  List.replicate 128 0x00

/-! ### The encoding of a whole byte sequence -/

/-- The unpadded encoding, group by group: the successive 6-bit fields of the group's bits from the most significant end,
a partial group filled up with zero bits (R56, R108, R105). -/
def base64url : List Byte → List Byte
  | b0 :: b1 :: b2 :: rest =>
    let g : BitVec 24 := b0 ++ b1 ++ b2
    lutEnc (g.extractLsb' 18 6) :: lutEnc (g.extractLsb' 12 6) :: lutEnc (g.extractLsb' 6 6) ::
      lutEnc (g.extractLsb' 0 6) :: base64url rest
  | [b0, b1] =>
    let g : BitVec 18 := b0 ++ b1 ++ 0b00#2
    [lutEnc (g.extractLsb' 12 6), lutEnc (g.extractLsb' 6 6), lutEnc (g.extractLsb' 0 6)]
  | [b0] =>
    let g : BitVec 12 := b0 ++ 0b0000#4
    [lutEnc (g.extractLsb' 6 6), lutEnc (g.extractLsb' 0 6)]
  | [] => []

/-- The number of `=` after `n` bytes: `(3 - n mod 3) mod 3` (R109). -/
def padCount (n : Nat) : Nat := (3 - n % 3) % 3

end Sys2Proof.Machine
end

