-- ==== Sys2Proof/Certificates/Slice0/Obligations.lean ====
section
/-! DEFINITION. The statements for the provers. Each docstring names the rule of `spec/` it formalises. -/

open Sys2Proof Sys2Proof.Machine

/-! ### Encoding and decoding -/

/-- Every well-formed instruction is decoded back from its frame and from its port value (R73 to R77; the frame is the
model's, log 10). -/
def Obligations.DecodeOfEncodeIsInstruction : Prop :=
  ∀ i : Instr, WellFormed i = true → decode (encode i) = .ok i ∧ decodeInput (encodeInput i) = i

/-- Every word of a command port decodes to a well-formed instruction. Its canonical word is the word with the operand of
NOP, RESET, GETC, FINISH and PAD replaced by 0x00 (R74); the words of INGEST stand as they are. A reserved word is kept
as it is too, though R75, R76 call its operand ignored: that is the model's choice (log 11, DESIGN CHOICE). -/
def Obligations.EncodeOfDecodedWordIsCanonical : Prop :=
  ∀ (n : Nat) (w : CmdWord),
    (WellFormed (decodeEncWord n w) = true ∧
      encodeInput (decodeEncWord n w) = .encPort n false (canonicalWord .enc w)) ∧
    (WellFormed (decodeDecWord n w) = true ∧
      encodeInput (decodeDecWord n w) = .decPort n false (canonicalWord .dec w))

/-- Each word of each command port is selected by exactly one row of the opcode table, the row of the instruction it
decodes to (R75, R76, R78). -/
def Obligations.EveryWordSelectsItsOneRow : Prop :=
  ∀ (n : Nat) (w : CmdWord),
    ((commandRows.filter (fun r => r.selects .encCw w)).map OpcodeRow.mnemonic = [mnemonicOf (decodeEncWord n w)]) ∧
    ((commandRows.filter (fun r => r.selects .decCw w)).map OpcodeRow.mnemonic = [mnemonicOf (decodeDecWord n w)])

/-- Words written out from the encodings (`95_test_vectors.md` section 3, W1 to W25). -/
def Obligations.WrittenWordsDecode : Prop :=
  (decodeInput (.encPort 0 false 0b00011111111#11) = .encNop 0 ∧
   decodeInput (.encPort 0 false 0b00110100101#11) = .encReset 0 ∧
   decodeInput (.encPort 0 false 0b01001100110#11) = .encIngest 0 0x66#8 ∧
   decodeInput (.encPort 0 false 0b01101111111#11) = .encGetc 0 ∧
   decodeInput (.encPort 0 false 0b10000000000#11) = .encFinish 0 ∧
   decodeInput (.encPort 0 false 0b10111111111#11) = .encPad 0 ∧
   decodeInput (.encPort 0 false 0b11100000000#11) = .encIllegal 0 0x700#11) ∧
  (decodeInput (.decPort 0 false 0b00000000000#11) = .decNop 0 ∧
   decodeInput (.decPort 0 false 0b00100000000#11) = .decReset 0 ∧
   decodeInput (.decPort 0 false 0b01000111101#11) = .decIngest 0 0x3D#8 ∧
   decodeInput (.decPort 0 false 0b01100000000#11) = .decGetc 0 ∧
   decodeInput (.decPort 0 false 0b10000000000#11) = .decFinish 0 ∧
   decodeInput (.decPort 0 false 0b10110101010#11) = .decIllegal101 0 0x5AA#11 ∧
   decodeInput (.decPort 0 false 0b11111111111#11) = .decIllegal11x 0 0x7FF#11)

/-- R74: the operand of INGEST is the low 8 bits as they stand; for every other opcode, reserved ones included, any two
words with the same opcode have the same effect, and the canonical encoding has operand 0x00. -/
def Obligations.OperandIsTakenAsItStandsOrIgnored : Prop :=
  (∀ (n : Nat) (w : CmdWord), w.extractLsb' 8 3 = 2#3 →
    (∃ b : Byte, b.toNat = w.toNat % 256 ∧ decodeEncWord n w = .encIngest n b) ∧
    (∃ c : Byte, c.toNat = w.toNat % 256 ∧ decodeDecWord n w = .decIngest n c)) ∧
  (∀ (n : Nat) (w v : CmdWord) (s : State), w.extractLsb' 8 3 ≠ 2#3 → w.extractLsb' 8 3 = v.extractLsb' 8 3 →
    exec (decodeEncWord n w) s = exec (decodeEncWord n v) s ∧
    exec (decodeDecWord n w) s = exec (decodeDecWord n v) s) ∧
  (∀ n : Nat, encodeInput (.encNop n) = .encPort n false 0x000#11 ∧ encodeInput (.encReset n) = .encPort n false 0x100#11 ∧
    encodeInput (.encGetc n) = .encPort n false 0x300#11 ∧ encodeInput (.encFinish n) = .encPort n false 0x400#11 ∧
    encodeInput (.encPad n) = .encPort n false 0x500#11 ∧ encodeInput (.decNop n) = .decPort n false 0x000#11 ∧
    encodeInput (.decReset n) = .decPort n false 0x100#11 ∧ encodeInput (.decGetc n) = .decPort n false 0x300#11 ∧
    encodeInput (.decFinish n) = .decPort n false 0x400#11)

/-- R82: printing any word of a command port and assembling the text gives the canonical form of the word, which has the
same effect. The line format's open details are the model's (log 18). -/
def Obligations.AssemblingThePrintedTextKeepsTheEffect : Prop :=
  ∀ (p : CmdPort) (w : CmdWord),
    assemble (disassemble p w) = some (p, canonicalWord p w) ∧
    ∀ s : State, exec (wordInstr p (canonicalWord p w)) s = exec (wordInstr p w) s

/-! ### The step and the ports -/

/-- R83, R60: the oldest sample is removed and the instruction it decodes to is executed; in particular the canonical
sample of a well-formed instruction runs that instruction, and so does a table word placed by `withFetchWord`. The list of
samples and the numbering of table words are the model's (logs 1, 2, 10). -/
def Obligations.StepExecutesTheDecodedSample : Prop :=
  (∀ (s : State) (p : PortInput) (rest : List PortInput), s.inputs = p :: rest →
    step s = exec (decodeInput p) { s with inputs := rest }) ∧
  (∀ (s : State) (i : Instr) (rest : List PortInput), WellFormed i = true → s.inputs = encodeInput i :: rest →
    step s = exec i { s with inputs := rest }) ∧
  (∀ (s : State) (nbits w : Nat) (i : Instr), decodeTableWord nbits w = some i →
    step (s.withFetchWord nbits w) = exec i s)

/-- R84: with `rst` at 1 the word is ignored and the step is that of RESET: every field at its reset value, response
(0, 0x00), nothing else changed. -/
def Obligations.RstPinActsAsReset : Prop :=
  (∀ (s : State) (n : Nat) (w : CmdWord) (rest : List PortInput) (x : EncInstance),
    s.inputs = .encPort n true w :: rest → s.encs[n]? = some x →
    step s = exec (.encReset n) { s with inputs := rest } ∧
    ∃ t, step s = .next t ∧ EncOnly { s with inputs := rest } t n
      { reg := { phase := 0, pending := 0, qlen := 0, q0 := 0, q1 := 0, stage := 0, fault := 0 },
        out := { count := 0, dout := 0 } }) ∧
  (∀ (s : State) (n : Nat) (w : CmdWord) (rest : List PortInput) (x : DecInstance),
    s.inputs = .decPort n true w :: rest → s.decs[n]? = some x →
    step s = exec (.decReset n) { s with inputs := rest } ∧
    ∃ t, step s = .next t ∧ DecOnly { s with inputs := rest } t n
      { reg := { phase := 0, pendingBits := 0, paddingSeen := false, slotValid := false, slot := 0, stage := 0, fault := 0 },
        out := { count := 0, dout := 0 } })

/-- The model's reading of R83 when the host presents nothing (log 3, DESIGN CHOICE): every instance keeps its state and
responds (0, 0x00), as for NOP. -/
def Obligations.IdleEdgeActsAsNopOnEveryPort : Prop :=
  ∀ s : State, s.inputs = [] → ∃ t, step s = .next t ∧ t.inputs = [] ∧ t.mapper = s.mapper ∧
    t.encs.length = s.encs.length ∧ t.decs.length = s.decs.length ∧
    (∀ (n : Nat) (x : EncInstance), s.encs[n]? = some x →
      t.encs[n]? = some { reg := x.reg, out := { count := 0, dout := 0 } }) ∧
    (∀ (n : Nat) (x : DecInstance), s.decs[n]? = some x →
      t.decs[n]? = some { reg := x.reg, out := { count := 0, dout := 0 } })

/-- The model's stop (log 7, DESIGN CHOICE): a command addressed to an instance that does not exist. -/
def Obligations.MissingInstanceStopsTheModel : Prop :=
  (∀ (i : Instr) (s : State) (n : Nat), unitOf i = .enc n → s.encs.length ≤ n → exec i s = .fault (.noSuchEncoder n)) ∧
  (∀ (i : Instr) (s : State) (n : Nat), unitOf i = .dec n → s.decs.length ≤ n → exec i s = .fault (.noSuchDecoder n))

/-- R40: every field of every instance of the reset machine has the value of its "reset" column, all zero. (How many
instances `State.reset` has is log 6.) -/
def Obligations.ResetLeavesEveryFieldZero : Prop :=
  (∀ x ∈ State.reset.encs, x.reg.phase = 0 ∧ x.reg.pending = 0 ∧ x.reg.qlen = 0 ∧ x.reg.q0 = 0 ∧ x.reg.q1 = 0 ∧
    x.reg.stage = 0 ∧ x.reg.fault = 0) ∧
  (∀ x ∈ State.reset.decs, x.reg.phase = 0 ∧ x.reg.pendingBits = 0 ∧ x.reg.paddingSeen = false ∧
    x.reg.slotValid = false ∧ x.reg.slot = 0 ∧ x.reg.stage = 0 ∧ x.reg.fault = 0) ∧
  State.reset.encs.length = 1 ∧ State.reset.decs.length = 1

/-! ### The mapper -/

/-- R51: ENC_ROM is the printed table, equals the closed form, and `=` is no entry. -/
def Obligations.EncRomIsThePrintedTable : Prop :=
  (∀ i : Sym, encRomPrinted[i.toNat]? = some (encRom i)) ∧ encRomPrinted.length = 64 ∧
  (∀ i : Sym, (i.toNat ≤ 25 → (encRom i).toNat = 0x41 + i.toNat) ∧
    (26 ≤ i.toNat ∧ i.toNat ≤ 51 → (encRom i).toNat = 0x61 + (i.toNat - 26)) ∧
    (52 ≤ i.toNat ∧ i.toNat ≤ 61 → (encRom i).toNat = 0x30 + (i.toNat - 52)) ∧
    (i.toNat = 62 → encRom i = 0x2D#8) ∧ (i.toNat = 63 → encRom i = 0x5F#8) ∧ encRom i ≠ 0x3D#8)

/-- R52: DEC_ROM is the printed grid, and each entry is classified by whether the code is in ENC_ROM, is `=`, or neither. -/
def Obligations.DecRomIsThePrintedGrid : Prop :=
  (∀ c : Byte, decRomPrinted[c.toNat]? = some (decRom c)) ∧ decRomPrinted.length = 256 ∧
  (∀ (i : Sym), decRom (encRom i) = 0b01#2 ++ i) ∧ decRom 0x3D#8 = 0x80#8 ∧
  (∀ c : Byte, (∀ i : Sym, encRom i ≠ c) → c ≠ 0x3D#8 → decRom c = 0x00#8)

/-- R93: the two lookups are inverse to each other, which characters are valid, and the closed form of their values. -/
def Obligations.LookupsAreInverse : Prop :=
  (∀ i : Sym, lutDec (lutEnc i) = { sym := i, valid := true, pad := false }) ∧
  (∀ c : Byte, (lutDec c).valid = true → lutEnc (lutDec c).sym = c) ∧
  (∀ c : Byte, (lutDec c).valid = true ↔
    (0x41 ≤ c.toNat ∧ c.toNat ≤ 0x5A) ∨ (0x61 ≤ c.toNat ∧ c.toNat ≤ 0x7A) ∨ (0x30 ≤ c.toNat ∧ c.toNat ≤ 0x39) ∨
      c = 0x2D#8 ∨ c = 0x5F#8) ∧
  ((List.range 256).filter (fun k => (lutDec (BitVec.ofNat 8 k)).valid)).length = 64 ∧
  (∀ c : Byte, (0x41 ≤ c.toNat ∧ c.toNat ≤ 0x5A → (lutDec c).sym.toNat = c.toNat - 0x41) ∧
    (0x61 ≤ c.toNat ∧ c.toNat ≤ 0x7A → (lutDec c).sym.toNat = c.toNat - 0x61 + 26) ∧
    (0x30 ≤ c.toNat ∧ c.toNat ≤ 0x39 → (lutDec c).sym.toNat = c.toNat - 0x30 + 52) ∧
    (c = 0x2D#8 → (lutDec c).sym = 62#6) ∧ (c = 0x5F#8 → (lutDec c).sym = 63#6))

/-- LUT.ENC completes in every state: `enc_char` shows the printed table's entry for the index (R90, R72), and nothing but
the driven pin changes. That a lookup is a step which keeps the level driven on its port, and that the other port's level
stands, are the model's choice (log 5, DESIGN CHOICE): for R92 the mapper is two functions and holds no state. -/
def Obligations.LutEncShowsTheEntry : Prop :=
  ∀ (i : Sym) (s : State), ∃ t, exec (.lutEnc i) s = .next t ∧ encRomPrinted[i.toNat]? = some (encCharPin t) ∧
    decPins t = decPins s ∧ t.mapper.decChar = s.mapper.decChar ∧ t.encs = s.encs ∧ t.decs = s.decs ∧
    t.inputs = s.inputs

/-- LUT.DEC completes in every state: `dec_sym`, `dec_valid`, `dec_pad` show the three fields of the printed grid's entry,
`dec_valid` and `dec_pad` are never both 1, codes from 0x80 on give (0, 0, 0) (R91, R72), and nothing but the driven pin
changes. That a lookup is a step which keeps the level driven on its port, and that the other port's level stands, are the
model's choice (log 5, DESIGN CHOICE): for R92 the mapper is two functions and holds no state. -/
def Obligations.LutDecShowsTheEntry : Prop :=
  ∀ (c : Byte) (s : State), ∃ t e, exec (.lutDec c) s = .next t ∧ decRomPrinted[c.toNat]? = some e ∧
    (decPins t).sym.toNat = e.toNat % 64 ∧ ((decPins t).valid = true ↔ e.toNat / 64 % 2 = 1) ∧
    ((decPins t).pad = true ↔ e.toNat / 128 = 1) ∧ ¬((decPins t).valid = true ∧ (decPins t).pad = true) ∧
    (0x80 ≤ c.toNat → decPins t = { sym := 0, valid := false, pad := false }) ∧
    encCharPin t = encCharPin s ∧ t.mapper.encSym = s.mapper.encSym ∧ t.encs = s.encs ∧ t.decs = s.decs ∧
    t.inputs = s.inputs

/-! ### The encoder's commands -/

/-- R101: ENC.NOP, `op` 0b000 with any operand, changes no field and responds (0, 0x00), in every stage and with any
occupancy. -/
def Obligations.EncNopRule : Prop :=
  (∀ (s : State) (n : Nat) (x : EncInstance), s.encs[n]? = some x → x.reg.fault = 0 →
    EncGoes (.encNop n) s n x.reg 0 0) ∧
  (∀ (n : Nat) (w : CmdWord), w.extractLsb' 8 3 = 0#3 → decodeInput (.encPort n false w) = .encNop n)

/-- R102: ENC.RESET, `op` 0b001 with any operand or the `rst` pin with any word, clears every field, from every state,
faulted or not. -/
def Obligations.EncResetRule : Prop :=
  (∀ (s : State) (n : Nat) (x : EncInstance), s.encs[n]? = some x →
    EncGoes (.encReset n) s n
      { phase := 0, pending := 0, qlen := 0, q0 := 0, q1 := 0, stage := 0, fault := 0 } 0 0) ∧
  (∀ (n : Nat) (w : CmdWord), decodeInput (.encPort n true w) = .encReset n ∧
    (w.extractLsb' 8 3 = 1#3 → decodeInput (.encPort n false w) = .encReset n))

/-- R103: ENC.INGEST, word `0x200 | b`. Faults by priority; else the symbols of the source's formula are enqueued,
`pending` is the byte, `phase` advances, and the count is 1, 1, 2. -/
def Obligations.EncIngestRule : Prop :=
  (∀ (n : Nat) (b : Byte), decodeInput (.encPort n false (0x200#11 ||| b.setWidth 11)) = .encIngest n b) ∧
  ∀ (s : State) (n : Nat) (x : EncInstance) (b : Byte), s.encs[n]? = some x → x.reg.fault = 0 →
    (x.reg.stage ≠ 0 → EncGoes (.encIngest n b) s n { x.reg with fault := 2 } 0 0) ∧
    (x.reg.stage = 0 → x.reg.qlen ≠ 0 → EncGoes (.encIngest n b) s n { x.reg with fault := 1 } 0 0) ∧
    (x.reg.stage = 0 → x.reg.qlen = 0 →
      (x.reg.phase = 0 → EncGoes (.encIngest n b) s n
        { x.reg with phase := 1, pending := b, qlen := 1, q0 := lutEnc (srcSym0 b) } 1 0) ∧
      (x.reg.phase = 1 → EncGoes (.encIngest n b) s n
        { x.reg with phase := 2, pending := b, qlen := 1, q0 := lutEnc (srcSym1 x.reg.pending b) } 1 0) ∧
      (x.reg.phase = 2 → EncGoes (.encIngest n b) s n
        { x.reg with phase := 0, pending := b, qlen := 2, q0 := lutEnc (srcSym2 x.reg.pending b),
                     q1 := lutEnc (srcSym3 b) } 2 0))

/-- R104: ENC.GETC, `op` 0b011 with any operand, returns the head of the queue and removes it; on an empty queue it faults with code 3. -/
def Obligations.EncGetcRule : Prop :=
  (∀ (n : Nat) (w : CmdWord), w.extractLsb' 8 3 = 3#3 → decodeInput (.encPort n false w) = .encGetc n) ∧
  ∀ (s : State) (n : Nat) (x : EncInstance), s.encs[n]? = some x → x.reg.fault = 0 →
    (x.reg.qlen = 0 → EncGoes (.encGetc n) s n { x.reg with fault := 3 } 0 0) ∧
    (x.reg.qlen ≠ 0 → EncGoes (.encGetc n) s n
      { x.reg with q0 := x.reg.q1, q1 := 0, qlen := BitVec.ofNat 2 (x.reg.qlen.toNat - 1) } 0 x.reg.q0)

/-- R105: ENC.FINISH, `op` 0b100 with any operand, flushes the partial group with zero bits (the next symbol with the absent byte equal to 0x00), keeps
`phase`, clears `pending`. -/
def Obligations.EncFinishRule : Prop :=
  (∀ (n : Nat) (w : CmdWord), w.extractLsb' 8 3 = 4#3 → decodeInput (.encPort n false w) = .encFinish n) ∧
  ∀ (s : State) (n : Nat) (x : EncInstance), s.encs[n]? = some x → x.reg.fault = 0 →
    (x.reg.stage ≠ 0 → EncGoes (.encFinish n) s n { x.reg with fault := 2 } 0 0) ∧
    (x.reg.stage = 0 → x.reg.qlen ≠ 0 → EncGoes (.encFinish n) s n { x.reg with fault := 1 } 0 0) ∧
    (x.reg.stage = 0 → x.reg.qlen = 0 →
      (x.reg.phase = 0 → EncGoes (.encFinish n) s n { x.reg with pending := 0, stage := 1 } 0 0) ∧
      (x.reg.phase = 1 → EncGoes (.encFinish n) s n
        { x.reg with pending := 0, stage := 1, qlen := 1, q0 := lutEnc (srcSym1 x.reg.pending 0) } 1 0) ∧
      (x.reg.phase = 2 → EncGoes (.encFinish n) s n
        { x.reg with pending := 0, stage := 1, qlen := 1, q0 := lutEnc (srcSym2 x.reg.pending 0) } 1 0))

/-- R106: ENC.PAD, `op` 0b101 with any operand, enqueues `(3 - phase) mod 3` characters `=`, clears `phase`, and moves to PADDED. -/
def Obligations.EncPadRule : Prop :=
  (∀ (n : Nat) (w : CmdWord), w.extractLsb' 8 3 = 5#3 → decodeInput (.encPort n false w) = .encPad n) ∧
  ∀ (s : State) (n : Nat) (x : EncInstance), s.encs[n]? = some x → x.reg.fault = 0 →
    (x.reg.stage ≠ 1 → EncGoes (.encPad n) s n { x.reg with fault := 2 } 0 0) ∧
    (x.reg.stage = 1 → x.reg.qlen ≠ 0 → EncGoes (.encPad n) s n { x.reg with fault := 1 } 0 0) ∧
    (x.reg.stage = 1 → x.reg.qlen = 0 → x.reg.phase.toNat ≤ 2 →
      EncGoes (.encPad n) s n
        { x.reg with
          phase := 0, stage := 2, qlen := BitVec.ofNat 2 ((3 - x.reg.phase.toNat) % 3),
          q0 := if 1 ≤ (3 - x.reg.phase.toNat) % 3 then 0x3D else x.reg.q0,
          q1 := if 2 ≤ (3 - x.reg.phase.toNat) % 3 then 0x3D else x.reg.q1 }
        (BitVec.ofNat 2 ((3 - x.reg.phase.toNat) % 3)) 0)

/-- R107: a word with `w[10:9] = 0b11` presented to an encoder raises ILLEGAL_CMD and changes nothing else; to a faulted
encoder it does nothing. -/
def Obligations.EncIllegalRule : Prop :=
  (∀ (n : Nat) (w : CmdWord), w.extractLsb' 9 2 = 3#2 → decodeInput (.encPort n false w) = .encIllegal n w) ∧
  ∀ (s : State) (n : Nat) (x : EncInstance) (w : CmdWord), s.encs[n]? = some x →
    (x.reg.fault = 0 → EncGoes (.encIllegal n w) s n { x.reg with fault := 5 } 0 0) ∧
    (x.reg.fault ≠ 0 → EncGoes (.encIllegal n w) s n x.reg 0 0)

/-- R100 line 2, R146: a faulted encoder ignores every command but RESET, with response (0, 0x00). -/
def Obligations.EncFaultedIsFrozen : Prop :=
  ∀ (i : Instr) (s : State) (n : Nat) (x : EncInstance), unitOf i = .enc n → i ≠ .encReset n →
    s.encs[n]? = some x → x.reg.fault ≠ 0 → EncGoes i s n x.reg 0 0

/-- R162: on an encoder state with `phase` 3 the `case` of INGEST, FINISH and PAD has no arm and raises ILLEGAL_CMD. That the
order and drain checks still come first there is the model's reading of R162 (log 8, DEDUCED). -/
def Obligations.EncMissingPhaseArmIsIllegal : Prop :=
  ∀ (s : State) (n : Nat) (x : EncInstance) (b : Byte), s.encs[n]? = some x → x.reg.fault = 0 → x.reg.qlen = 0 →
    x.reg.phase = 3 →
    (x.reg.stage = 0 → EncGoes (.encIngest n b) s n { x.reg with fault := 5 } 0 0 ∧
      EncGoes (.encFinish n) s n { x.reg with fault := 5 } 0 0) ∧
    (x.reg.stage = 1 → EncGoes (.encPad n) s n { x.reg with fault := 5 } 0 0)

/-! ### The decoder's commands -/

/-- R121: DEC.NOP, `op` 0b000 with any operand, changes no field and responds (0, 0x00). -/
def Obligations.DecNopRule : Prop :=
  (∀ (s : State) (n : Nat) (x : DecInstance), s.decs[n]? = some x → x.reg.fault = 0 →
    DecGoes (.decNop n) s n x.reg 0 0) ∧
  (∀ (n : Nat) (w : CmdWord), w.extractLsb' 8 3 = 0#3 → decodeInput (.decPort n false w) = .decNop n)

/-- R122: DEC.RESET, `op` 0b001 with any operand or the `rst` pin with any word, clears every field, from every state,
faulted or not. -/
def Obligations.DecResetRule : Prop :=
  (∀ (s : State) (n : Nat) (x : DecInstance), s.decs[n]? = some x →
    DecGoes (.decReset n) s n
      { phase := 0, pendingBits := 0, paddingSeen := false, slotValid := false, slot := 0, stage := 0, fault := 0 } 0 0) ∧
  (∀ (n : Nat) (w : CmdWord), decodeInput (.decPort n true w) = .decReset n ∧
    (w.extractLsb' 8 3 = 1#3 → decodeInput (.decPort n false w) = .decReset n))

/-- R123: DEC.INGEST, word `0x200 | c`. Faults by priority; `=` closes the stream; after it, alphabet characters only advance the phase;
before it, an alphabet character of value `v` produces no byte at phase 0 and one byte at phases 1, 2, 3. -/
def Obligations.DecIngestRule : Prop :=
  (∀ (n : Nat) (c : Byte), decodeInput (.decPort n false (0x200#11 ||| c.setWidth 11)) = .decIngest n c) ∧
  ∀ (s : State) (n : Nat) (x : DecInstance) (c : Byte), s.decs[n]? = some x → x.reg.fault = 0 →
    (x.reg.stage ≠ 0 → DecGoes (.decIngest n c) s n { x.reg with fault := 2 } 0 0) ∧
    (x.reg.stage = 0 → x.reg.slotValid = true → DecGoes (.decIngest n c) s n { x.reg with fault := 1 } 0 0) ∧
    (x.reg.stage = 0 → x.reg.slotValid = false →
      ((∀ i : Sym, lutEnc i ≠ c) → c ≠ 0x3D → DecGoes (.decIngest n c) s n { x.reg with fault := 4 } 0 0) ∧
      (c = 0x3D → DecGoes (.decIngest n c) s n
        { x.reg with phase := BitVec.ofNat 2 ((x.reg.phase.toNat + 1) % 4), paddingSeen := true } 0 0) ∧
      (∀ v : Sym, c = lutEnc v →
        (x.reg.paddingSeen = true → DecGoes (.decIngest n c) s n
          { x.reg with phase := BitVec.ofNat 2 ((x.reg.phase.toNat + 1) % 4) } 0 0) ∧
        (x.reg.paddingSeen = false →
          (x.reg.phase = 0 → DecGoes (.decIngest n c) s n { x.reg with phase := 1, pendingBits := v } 0 0) ∧
          (x.reg.phase = 1 → DecGoes (.decIngest n c) s n
            { x.reg with phase := 2, pendingBits := v, slotValid := true, slot := srcByte1 x.reg.pendingBits v } 1 0) ∧
          (x.reg.phase = 2 → DecGoes (.decIngest n c) s n
            { x.reg with phase := 3, pendingBits := v, slotValid := true, slot := srcByte2 x.reg.pendingBits v } 1 0) ∧
          (x.reg.phase = 3 → DecGoes (.decIngest n c) s n
            { x.reg with phase := 0, pendingBits := v, slotValid := true, slot := srcByte3 x.reg.pendingBits v } 1 0))))

/-- R124: DEC.GETC, `op` 0b011 with any operand, returns the byte of the slot and empties it; on an empty slot it faults with code 3. -/
def Obligations.DecGetcRule : Prop :=
  (∀ (n : Nat) (w : CmdWord), w.extractLsb' 8 3 = 3#3 → decodeInput (.decPort n false w) = .decGetc n) ∧
  ∀ (s : State) (n : Nat) (x : DecInstance), s.decs[n]? = some x → x.reg.fault = 0 →
    (x.reg.slotValid = false → DecGoes (.decGetc n) s n { x.reg with fault := 3 } 0 0) ∧
    (x.reg.slotValid = true → DecGoes (.decGetc n) s n { x.reg with slot := 0, slotValid := false } 0 x.reg.slot)

/-- R125: DEC.FINISH, `op` 0b100 with any operand, drops the bits of a partial group, keeps slot and padding flag, and reports an undrained byte with
count 1. -/
def Obligations.DecFinishRule : Prop :=
  (∀ (n : Nat) (w : CmdWord), w.extractLsb' 8 3 = 4#3 → decodeInput (.decPort n false w) = .decFinish n) ∧
  ∀ (s : State) (n : Nat) (x : DecInstance), s.decs[n]? = some x → x.reg.fault = 0 →
    (x.reg.stage ≠ 0 → DecGoes (.decFinish n) s n { x.reg with fault := 2 } 0 0) ∧
    (x.reg.stage = 0 → DecGoes (.decFinish n) s n { x.reg with phase := 0, pendingBits := 0, stage := 1 }
      (if x.reg.slotValid = true then 1 else 0) 0)

/-- R126: a word with `w[10:8] = 0b101` or `w[10:9] = 0b11` presented to a decoder raises ILLEGAL_CMD and changes nothing
else; to a faulted decoder it does nothing. -/
def Obligations.DecIllegalRule : Prop :=
  (∀ (n : Nat) (w : CmdWord), (w.extractLsb' 8 3 = 5#3 → decodeInput (.decPort n false w) = .decIllegal101 n w) ∧
    (w.extractLsb' 9 2 = 3#2 → decodeInput (.decPort n false w) = .decIllegal11x n w)) ∧
  ∀ (s : State) (n : Nat) (x : DecInstance) (w : CmdWord), s.decs[n]? = some x →
    (x.reg.fault = 0 → DecGoes (.decIllegal101 n w) s n { x.reg with fault := 5 } 0 0 ∧
      DecGoes (.decIllegal11x n w) s n { x.reg with fault := 5 } 0 0) ∧
    (x.reg.fault ≠ 0 → DecGoes (.decIllegal101 n w) s n x.reg 0 0 ∧ DecGoes (.decIllegal11x n w) s n x.reg 0 0)

/-- R120 line 2, R146: a faulted decoder ignores every command but RESET, with response (0, 0x00). -/
def Obligations.DecFaultedIsFrozen : Prop :=
  ∀ (i : Instr) (s : State) (n : Nat) (x : DecInstance), unitOf i = .dec n → i ≠ .decReset n →
    s.decs[n]? = some x → x.reg.fault ≠ 0 → DecGoes i s n x.reg 0 0

/-! ### Rules about the whole machine -/

/-- R110: the encoder's stage and occupancy table, on the states with legal `phase`, `qlen` and `stage`. -/
def Obligations.EncTransitionTable : Prop :=
  ∀ (i : Instr) (s t : State) (n : Nat) (x y : EncInstance), unitOf i = .enc n → exec i s = .next t →
    s.encs[n]? = some x → t.encs[n]? = some y → x.reg.phase.toNat ≤ 2 → x.reg.qlen.toNat ≤ 2 → x.reg.stage.toNat ≤ 2 →
    (x.reg.fault = 0 →
      (i = .encNop n → y.reg.fault = 0 ∧ y.reg.stage = x.reg.stage) ∧
      (i = .encReset n → y.reg.fault = 0 ∧ y.reg.stage = 0) ∧
      ((∃ b, i = .encIngest n b) →
        y.reg.stage = x.reg.stage ∧
        y.reg.fault = (if x.reg.stage ≠ 0 then 2 else if x.reg.qlen ≠ 0 then 1 else 0)) ∧
      (i = .encGetc n → y.reg.stage = x.reg.stage ∧ y.reg.fault = (if x.reg.qlen = 0 then 3 else 0)) ∧
      (i = .encFinish n →
        y.reg.fault = (if x.reg.stage ≠ 0 then 2 else if x.reg.qlen ≠ 0 then 1 else 0) ∧
        y.reg.stage = (if x.reg.stage = 0 ∧ x.reg.qlen = 0 then 1 else x.reg.stage)) ∧
      (i = .encPad n →
        y.reg.fault = (if x.reg.stage ≠ 1 then 2 else if x.reg.qlen ≠ 0 then 1 else 0) ∧
        y.reg.stage = (if x.reg.stage = 1 ∧ x.reg.qlen = 0 then 2 else x.reg.stage)) ∧
      ((∃ w, i = .encIllegal n w) → y.reg.fault = 5 ∧ y.reg.stage = x.reg.stage)) ∧
    (x.reg.fault ≠ 0 → (i = .encReset n → y.reg.fault = 0 ∧ y.reg.stage = 0) ∧ (i ≠ .encReset n → y.reg = x.reg))

/-- R141, R145: which code each decoder command records, when none was recorded. -/
def Obligations.DecFaultCodesByPriority : Prop :=
  ∀ (i : Instr) (s t : State) (n : Nat) (x y : DecInstance), unitOf i = .dec n → exec i s = .next t →
    s.decs[n]? = some x → t.decs[n]? = some y → x.reg.fault = 0 →
    (y.reg.fault = 5 ↔ ∃ w, i = .decIllegal101 n w ∨ i = .decIllegal11x n w) ∧
    (y.reg.fault = 2 ↔ ((∃ c, i = .decIngest n c) ∨ i = .decFinish n) ∧ x.reg.stage ≠ 0) ∧
    (y.reg.fault = 1 ↔ (∃ c, i = .decIngest n c) ∧ x.reg.stage = 0 ∧ x.reg.slotValid = true) ∧
    (y.reg.fault = 4 ↔ ∃ c, i = .decIngest n c ∧ x.reg.stage = 0 ∧ x.reg.slotValid = false ∧ inCodeSet c = false) ∧
    (y.reg.fault = 3 ↔ i = .decGetc n ∧ x.reg.slotValid = false) ∧
    y.reg.fault.toNat ≤ 5

/-- R146: a faulting step writes the cause into `fault`, changes no other field, and responds (0, 0x00); while `fault` is
not 0 every command but RESET is ignored, with response (0, 0x00); on either machine, for every command. -/
def Obligations.FaultsArePrecise : Prop :=
  (∀ (i : Instr) (s t : State) (n : Nat) (x y : EncInstance), exec i s = .next t → s.encs[n]? = some x →
    t.encs[n]? = some y →
    (x.reg.fault = 0 → y.reg.fault ≠ 0 →
      y = { reg := { x.reg with fault := y.reg.fault }, out := { count := 0, dout := 0 } }) ∧
    (x.reg.fault ≠ 0 → unitOf i = .enc n → i ≠ .encReset n → y = { reg := x.reg, out := { count := 0, dout := 0 } })) ∧
  (∀ (i : Instr) (s t : State) (n : Nat) (x y : DecInstance), exec i s = .next t → s.decs[n]? = some x →
    t.decs[n]? = some y →
    (x.reg.fault = 0 → y.reg.fault ≠ 0 →
      y = { reg := { x.reg with fault := y.reg.fault }, out := { count := 0, dout := 0 } }) ∧
    (x.reg.fault ≠ 0 → unitOf i = .dec n → i ≠ .decReset n → y = { reg := x.reg, out := { count := 0, dout := 0 } }))

/-- R147: the only way out of the faulted state is reset, which clears `fault`; a second cause is not recorded. -/
def Obligations.OnlyResetLeavesTheFaultedState : Prop :=
  (∀ (i : Instr) (s t : State) (n : Nat) (x y : EncInstance), exec i s = .next t → s.encs[n]? = some x →
    t.encs[n]? = some y → x.reg.fault ≠ 0 →
    (i = .encReset n ∧ y.reg = EncState.reset) ∨ (i ≠ .encReset n ∧ y.reg = x.reg)) ∧
  (∀ (i : Instr) (s t : State) (n : Nat) (x y : DecInstance), exec i s = .next t → s.decs[n]? = some x →
    t.decs[n]? = some y → x.reg.fault ≠ 0 →
    (i = .decReset n ∧ y.reg = DecState.reset) ∨ (i ≠ .decReset n ∧ y.reg = x.reg))

/-- R24, R32, R114 (b): `stage` moves only forward, ACTIVE to FINISHED by FINISH and FINISHED to PADDED by ENC.PAD, and
returns to ACTIVE only by reset. -/
def Obligations.StageMovesOnlyForwardUntilReset : Prop :=
  (∀ (i : Instr) (s t : State) (n : Nat) (x y : EncInstance), exec i s = .next t → s.encs[n]? = some x →
    t.encs[n]? = some y →
    y.reg.stage = x.reg.stage ∨ (i = .encFinish n ∧ x.reg.stage = 0 ∧ y.reg.stage = 1) ∨
      (i = .encPad n ∧ x.reg.stage = 1 ∧ y.reg.stage = 2) ∨ (i = .encReset n ∧ y.reg.stage = 0)) ∧
  (∀ (i : Instr) (s t : State) (n : Nat) (x y : DecInstance), exec i s = .next t → s.decs[n]? = some x →
    t.decs[n]? = some y →
    y.reg.stage = x.reg.stage ∨ (i = .decFinish n ∧ x.reg.stage = 0 ∧ y.reg.stage = 1) ∨
      (i = .decReset n ∧ y.reg.stage = 0))

/-- R30: `padding_seen` is 1 after a step exactly when it was 1 and the step was no reset of the instance, or an accepted
DEC.INGEST of `=` set it; and while it is 1 no step produces a byte (R34 (c)). -/
def Obligations.PaddingClosesTheStreamUntilReset : Prop :=
  ∀ (i : Instr) (s t : State) (n : Nat) (x y : DecInstance), exec i s = .next t → s.decs[n]? = some x →
    t.decs[n]? = some y →
    (y.reg.paddingSeen = true ↔
      (x.reg.paddingSeen = true ∧ i ≠ .decReset n) ∨
      (i = .decIngest n 0x3D ∧ x.reg.fault = 0 ∧ x.reg.stage = 0 ∧ x.reg.slotValid = false)) ∧
    (x.reg.paddingSeen = true → y.reg.slotValid = true → x.reg.slotValid = true)

/-- R79: the response of every command of both machines; the counts are the units now ready, the encoder's 1 or 2 after
INGEST, 0 or 1 after FINISH, 0 to 2 after PAD. -/
def Obligations.ResponseOfEveryCommand : Prop :=
  (∀ (i : Instr) (s t : State) (n : Nat) (x y : EncInstance), unitOf i = .enc n → exec i s = .next t →
    s.encs[n]? = some x → t.encs[n]? = some y →
    (y.reg.fault ≠ 0 → y.out = { count := 0, dout := 0 }) ∧
    (i = .encNop n ∨ i = .encReset n → y.out = { count := 0, dout := 0 }) ∧
    (y.reg.fault = 0 → (∃ b, i = .encIngest n b) ∨ i = .encFinish n ∨ i = .encPad n →
      y.out = { count := y.reg.qlen, dout := 0 }) ∧
    (y.reg.fault = 0 → (∃ b, i = .encIngest n b) → y.reg.qlen = 1 ∨ y.reg.qlen = 2) ∧
    (y.reg.fault = 0 → i = .encFinish n → y.reg.qlen = 0 ∨ y.reg.qlen = 1) ∧
    (y.reg.fault = 0 → i = .encPad n → y.reg.qlen = 0 ∨ y.reg.qlen = 1 ∨ y.reg.qlen = 2) ∧
    (y.reg.fault = 0 → i = .encGetc n → y.out = { count := 0, dout := x.reg.q0 })) ∧
  (∀ (i : Instr) (s t : State) (n : Nat) (x y : DecInstance), unitOf i = .dec n → exec i s = .next t →
    s.decs[n]? = some x → t.decs[n]? = some y →
    (y.reg.fault ≠ 0 → y.out = { count := 0, dout := 0 }) ∧
    (i = .decNop n ∨ i = .decReset n → y.out = { count := 0, dout := 0 }) ∧
    (y.reg.fault = 0 → (∃ c, i = .decIngest n c) ∨ i = .decFinish n →
      y.out = { count := if y.reg.slotValid = true then 1 else 0, dout := 0 }) ∧
    (y.reg.fault = 0 → i = .decGetc n → y.out = { count := 0, dout := x.reg.slot }))

/-- R151: a step of one instance never writes another instance or the mapper's pins, and what it does to its own instance
depends on that instance alone. -/
def Obligations.InstancesAreIndependent : Prop :=
  (∀ (i : Instr) (s t : State), exec i s = .next t →
    (∀ n, unitOf i ≠ .enc n → t.encs[n]? = s.encs[n]?) ∧ (∀ n, unitOf i ≠ .dec n → t.decs[n]? = s.decs[n]?) ∧
    (unitOf i ≠ .encSymPort → t.mapper.encSym = s.mapper.encSym) ∧
    (unitOf i ≠ .decCharPort → t.mapper.decChar = s.mapper.decChar) ∧
    t.encs.length = s.encs.length ∧ t.decs.length = s.decs.length ∧ t.inputs = s.inputs) ∧
  (∀ (i : Instr) (s s' t : State) (n : Nat), unitOf i = .enc n → s.encs[n]? = s'.encs[n]? → exec i s = .next t →
    ∃ t', exec i s' = .next t' ∧ t'.encs[n]? = t.encs[n]?) ∧
  (∀ (i : Instr) (s s' t : State) (n : Nat), unitOf i = .dec n → s.decs[n]? = s'.decs[n]? → exec i s = .next t →
    ∃ t', exec i s' = .next t' ∧ t'.decs[n]? = t.decs[n]?)

/-- R60, R151 (and log 2, the model's one list of samples): two commands on different ports give the same state in either
order. -/
def Obligations.CommandsOnDifferentPortsCommute : Prop :=
  ∀ (i j : Instr) (s t u : State), unitOf i ≠ unitOf j → exec i s = .next t → exec j t = .next u →
    ∃ v, exec j s = .next v ∧ exec i v = .next u

/-- R26: every step, from every state that meets the encoder invariants, keeps them. -/
def Obligations.EveryStepKeepsTheEncoderInvariants : Prop :=
  ∀ s t : State, EncsInv s → step s = .next t → EncsInv t

/-- R26 with R110's remark: stage FINISHED with a non-empty queue has `qlen` 1, and stage PADDED queues only `=`. -/
def Obligations.EveryStepKeepsTheQueueByStage : Prop :=
  ∀ s t : State, EncsQueueInv s → step s = .next t → EncsQueueInv t

/-- R34 (a), (b), (d): every step, from every state that meets the decoder invariants, keeps them. -/
def Obligations.EveryStepKeepsTheDecoderInvariants : Prop :=
  ∀ s t : State, DecsInv s → step s = .next t → DecsInv t

/-- R26, R34: the reset machine meets the invariants, and a reset step re-establishes them for its instance from any
state, one outside them included. -/
def Obligations.ResetEstablishesTheInvariants : Prop :=
  (EncsQueueInv State.reset ∧ DecsInv State.reset) ∧
  (∀ (s t : State) (n : Nat) (y : EncInstance), exec (.encReset n) s = .next t → t.encs[n]? = some y →
    EncInv y.reg ∧ EncQueueInv y.reg) ∧
  (∀ (s t : State) (n : Nat) (y : DecInstance), exec (.decReset n) s = .next t → t.decs[n]? = some y → DecInv y.reg)

/-! ### Arithmetic and groups -/

/-- R111: each slice-and-concatenate expression of the command rules equals the source's shift-and-mask form, and `|` there
equals `+`. -/
def Obligations.SliceFormsEqualShiftAndMaskForms : Prop :=
  (∀ b : Byte, symPhase0 b = srcSym0 b ∧ symLast b = srcSym3 b) ∧
  (∀ p b : Byte, symPhase1 p b = srcSym1 p b ∧ symPhase2 p b = srcSym2 p b ∧
    symFlush1 p = srcSym1 p 0 ∧ symFlush2 p = srcSym2 p 0 ∧
    (symPhase1 p b).toNat = p.toNat % 4 * 16 + b.toNat / 16 ∧ (symPhase2 p b).toNat = p.toNat % 16 * 4 + b.toNat / 64) ∧
  (∀ p v : Sym, bytePhase1 p v = srcByte1 p v ∧ bytePhase2 p v = srcByte2 p v ∧ bytePhase3 p v = srcByte3 p v ∧
    (bytePhase1 p v).toNat = p.toNat * 4 + v.toNat / 16 ∧ (bytePhase2 p v).toNat = p.toNat % 16 * 16 + v.toNat / 4 ∧
    (bytePhase3 p v).toNat = p.toNat % 4 * 64 + v.toNat)

/-- R108: three ingests from phase 0, each drained, give the four characters of the source's formula, which are the 24 bits
of the bytes; afterwards `phase` is 0 and the queue is empty. -/
def Obligations.EncoderGroupLaw : Prop :=
  ∀ (s : State) (n : Nat) (x : EncInstance) (b0 b1 b2 : Byte), s.encs[n]? = some x → x.reg.fault = 0 →
    x.reg.stage = 0 → x.reg.qlen = 0 → x.reg.phase = 0 →
    (∃ t y, encFeed n [b0, b1, b2] s =
        some ([lutEnc (srcSym0 b0), lutEnc (srcSym1 b0 b1), lutEnc (srcSym2 b1 b2), lutEnc (srcSym3 b2)], t) ∧
      t.encs[n]? = some y ∧ y.reg.phase = 0 ∧ y.reg.qlen = 0 ∧ y.reg.fault = 0 ∧ y.reg.stage = 0) ∧
    (srcSym0 b0 ++ srcSym1 b0 b1 ++ srcSym2 b1 b2 ++ srcSym3 b2 : BitVec 24) = (b0 ++ b1 ++ b2 : BitVec 24)

/-- R127: four alphabet characters from phase 0 without padding, each drained: the responses are 0, 1, 1, 1, and the three
bytes are the 24 bits of the symbols, the inverse of the encoder's group; and no ingest ever returns more than one byte,
or one at phase 0. -/
def Obligations.DecoderGroupLaw : Prop :=
  (∀ (s t : State) (n : Nat) (x : DecInstance) (c : Byte) (r : Response) (f : BitVec 3), s.decs[n]? = some x →
    issueDec n (.decIngest n c) s = some (r, f, t) → r.count.toNat ≤ 1 ∧ (x.reg.phase = 0 → r.count = 0)) ∧
  (∀ (s : State) (n : Nat) (x : DecInstance) (v0 v1 v2 v3 : Sym), s.decs[n]? = some x → x.reg.fault = 0 →
    x.reg.stage = 0 → x.reg.slotValid = false → x.reg.paddingSeen = false → x.reg.phase = 0 →
    (∃ s0 s1 t1 s2 t2 s3 t3 y,
      issueDec n (.decIngest n (lutEnc v0)) s = some ({ count := 0, dout := 0 }, 0, s0) ∧
      issueDec n (.decIngest n (lutEnc v1)) s0 = some ({ count := 1, dout := 0 }, 0, s1) ∧
      issueDec n (.decGetc n) s1 = some ({ count := 0, dout := srcByte1 v0 v1 }, 0, t1) ∧
      issueDec n (.decIngest n (lutEnc v2)) t1 = some ({ count := 1, dout := 0 }, 0, s2) ∧
      issueDec n (.decGetc n) s2 = some ({ count := 0, dout := srcByte2 v1 v2 }, 0, t2) ∧
      issueDec n (.decIngest n (lutEnc v3)) t2 = some ({ count := 1, dout := 0 }, 0, s3) ∧
      issueDec n (.decGetc n) s3 = some ({ count := 0, dout := srcByte3 v2 v3 }, 0, t3) ∧
      t3.decs[n]? = some y ∧ y.reg.phase = 0)) ∧
  (∀ v0 v1 v2 v3 : Sym,
    (srcByte1 v0 v1 ++ srcByte2 v1 v2 ++ srcByte3 v2 v3 : BitVec 24) = (v0 ++ v1 ++ v2 ++ v3 : BitVec 24))

/-! ### The host procedures -/

/-- R170 for ENCODE: from any state of the instance it never faults, collects the encoding of the bytes, and ends the
session; no other instance changes. -/
def Obligations.EncodeProducesTheEncoding : Prop :=
  ∀ (s : State) (n : Nat) (bytes : List Byte), n < s.encs.length →
    ∃ t y, runEncode n bytes s = some (base64url bytes, t) ∧ EncOnly s t n y ∧
      y.reg.fault = 0 ∧ y.reg.stage = 1 ∧ y.reg.qlen = 0 ∧ encSessionEnded y.reg

/-- R170 for ENCODE_PADDED: the encoding followed by `(3 - n mod 3) mod 3` characters `=`. -/
def Obligations.EncodePaddedAppendsThePadding : Prop :=
  ∀ (s : State) (n : Nat) (bytes : List Byte), n < s.encs.length →
    ∃ t y, runEncodePadded n bytes s = some (base64url bytes ++ List.replicate (padCount bytes.length) 0x3D, t) ∧
      EncOnly s t n y ∧ y.reg.fault = 0 ∧ y.reg.stage = 2 ∧ y.reg.qlen = 0 ∧ y.reg.phase = 0

/-- R109, the output lengths: `ceil(4n/3)` characters unpadded, `4 ceil(n/3)` padded. -/
def Obligations.OutputLengthsOfEncoding : Prop :=
  ∀ (s t : State) (n : Nat) (bytes out : List Byte),
    (runEncode n bytes s = some (out, t) → out.length = (4 * bytes.length + 2) / 3) ∧
    (runEncodePadded n bytes s = some (out, t) → out.length = 4 * ((bytes.length + 2) / 3))

/-- R170 for DECODE: it fails exactly when the input holds a character outside the 65-symbol set, then with code 4; else
it ends the session without a fault. -/
def Obligations.DecodeFailsExactlyOnForeignCharacters : Prop :=
  ∀ (s : State) (n : Nat) (chars : List Byte), n < s.decs.length →
    ((∃ c ∈ chars, inCodeSet c = false) →
      ∃ t y, runDecode n chars s = .failed t ∧ t.decs[n]? = some y ∧ y.reg.fault = 4) ∧
    ((∀ c ∈ chars, inCodeSet c = true) →
      ∃ out t y, runDecode n chars s = .done out t ∧ DecOnly s t n y ∧ decSessionEnded y.reg)

/-- R128: `k` alphabet characters, then any characters of the 65-symbol set from a first `=` on, then FINISH: the bytes
number `3 (k div 4) + max(0, (k mod 4) - 1)` and are those of the alphabet characters alone. -/
def Obligations.PaddingAndWhatFollowsProduceNothing : Prop :=
  ∀ (s : State) (n : Nat) (chars rest : List Byte), n < s.decs.length → (∀ c ∈ chars, isAlphabet c = true) →
    (∀ c ∈ rest, inCodeSet c = true) →
    ∃ out t u, runDecode n chars s = .done out t ∧ runDecode n (chars ++ 0x3D :: rest) s = .done out u ∧
      out.length = 3 * (chars.length / 4) + (chars.length % 4 - 1)

/-- R129: what ENCODE or ENCODE_PADDED produces, DECODE turns back into exactly the bytes encoded, without a fault; on any
encoder and decoder instance, from any state. -/
def Obligations.DecodeOfEncodeIsTheInput : Prop :=
  ∀ (s : State) (n m : Nat) (bytes : List Byte), n < s.encs.length → m < s.decs.length →
    (∃ chars t u y, runEncode n bytes s = some (chars, t) ∧ runDecode m chars t = .done bytes u ∧
      u.decs[m]? = some y ∧ y.reg.fault = 0) ∧
    (∃ chars t u y, runEncodePadded n bytes s = some (chars, t) ∧ runDecode m chars t = .done bytes u ∧
      u.decs[m]? = some y ∧ y.reg.fault = 0)
end

