-- ==== Sys2Proof/Laws/Decode.lean ====
section
/-! SUPPORT. The fields of a command word (`30_encoding.md` R73), the reserved words by their opcode (R78), and frames. -/

namespace Sys2Proof

@[simp] theorem opField_cmdWord (op : BitVec 3) (opd : Byte) : opField (cmdWord op opd) = op := by
  revert op opd
  decide +kernel

@[simp] theorem opdField_cmdWord (op : BitVec 3) (opd : Byte) : opdField (cmdWord op opd) = opd := by
  revert op opd
  decide +kernel

/-- A word is its opcode and its operand. -/
@[simp] theorem cmdWord_fields (w : CmdWord) : cmdWord (opField w) (opdField w) = w := by
  revert w
  decide +kernel

theorem opField_cases (w : CmdWord) :
    opField w = 0 ∨ opField w = 1 ∨ opField w = 2 ∨ opField w = 3 ∨ opField w = 4 ∨ opField w = 5 ∨ opField w = 6 ∨
      opField w = 7 := by
  generalize opField w = o
  revert o
  decide

theorem reserved11x_iff (w : CmdWord) : reserved11x w = true ↔ opField w = 6 ∨ opField w = 7 := by
  revert w
  decide +kernel

theorem reserved101_iff (w : CmdWord) : reserved101 w = true ↔ opField w = 5 := by
  revert w
  decide +kernel

/-- A frame without a port number is read as a word on `e_cw` of its instance. -/
theorem decodeFrame_encPort (n : Nat) (w : CmdWord) : decodeFrame (8192 * n + w.toNat) = .ok (.encPort n false w) := by
  have hw := w.isLt
  have h1 : (8192 * n + w.toNat) % 2048 = w.toNat := by omega
  have h2 : (8192 * n + w.toNat) / 2048 % 4 = 0 := by omega
  have h3 : (8192 * n + w.toNat) / 8192 = n := by omega
  simp [decodeFrame, h1, h2, h3]

/-- A frame with port number 1 is read as a word on `d_cw` of its instance. -/
theorem decodeFrame_decPort (n : Nat) (w : CmdWord) :
    decodeFrame (8192 * n + 2048 + w.toNat) = .ok (.decPort n false w) := by
  have hw := w.isLt
  have h1 : (8192 * n + 2048 + w.toNat) % 2048 = w.toNat := by omega
  have h2 : (8192 * n + 2048 + w.toNat) / 2048 % 4 = 1 := by omega
  have h3 : (8192 * n + 2048 + w.toNat) / 8192 = n := by omega
  simp [decodeFrame, h1, h2, h3]

end Sys2Proof
end

