-- ==== Sys2Proof/Laws/State.lean ====
section
/-! SUPPORT. What each update of the state does to each field: one lemma per field per update, by definition, so that no later
proof unfolds a record update. -/

namespace Sys2Proof.Machine

variable (n : Nat) (x : EncInstance) (y : DecInstance) (s : State) (p : PortInput) (i : Sym) (c : Byte)

@[simp] theorem setEnc_encs : (setEnc n x s).encs = s.encs.set n x := rfl
@[simp] theorem setEnc_decs : (setEnc n x s).decs = s.decs := rfl
@[simp] theorem setEnc_mapper : (setEnc n x s).mapper = s.mapper := rfl
@[simp] theorem setEnc_inputs : (setEnc n x s).inputs = s.inputs := rfl

@[simp] theorem setDec_encs : (setDec n y s).encs = s.encs := rfl
@[simp] theorem setDec_decs : (setDec n y s).decs = s.decs.set n y := rfl
@[simp] theorem setDec_mapper : (setDec n y s).mapper = s.mapper := rfl
@[simp] theorem setDec_inputs : (setDec n y s).inputs = s.inputs := rfl

@[simp] theorem driveEncSym_encs : (driveEncSym i s).encs = s.encs := rfl
@[simp] theorem driveEncSym_decs : (driveEncSym i s).decs = s.decs := rfl
@[simp] theorem driveEncSym_encSym : (driveEncSym i s).mapper.encSym = i := rfl
@[simp] theorem driveEncSym_decChar : (driveEncSym i s).mapper.decChar = s.mapper.decChar := rfl
@[simp] theorem driveEncSym_inputs : (driveEncSym i s).inputs = s.inputs := rfl

@[simp] theorem driveDecChar_encs : (driveDecChar c s).encs = s.encs := rfl
@[simp] theorem driveDecChar_decs : (driveDecChar c s).decs = s.decs := rfl
@[simp] theorem driveDecChar_encSym : (driveDecChar c s).mapper.encSym = s.mapper.encSym := rfl
@[simp] theorem driveDecChar_decChar : (driveDecChar c s).mapper.decChar = c := rfl
@[simp] theorem driveDecChar_inputs : (driveDecChar c s).inputs = s.inputs := rfl

@[simp] theorem presentFirst_encs : (presentFirst p s).encs = s.encs := rfl
@[simp] theorem presentFirst_decs : (presentFirst p s).decs = s.decs := rfl
@[simp] theorem presentFirst_mapper : (presentFirst p s).mapper = s.mapper := rfl
@[simp] theorem presentFirst_inputs : (presentFirst p s).inputs = p :: s.inputs := rfl

@[simp] theorem idleEdge_encs :
    (idleEdge s).encs = s.encs.map (fun x => { x with out := Response.zero }) := rfl
@[simp] theorem idleEdge_decs :
    (idleEdge s).decs = s.decs.map (fun x => { x with out := Response.zero }) := rfl
@[simp] theorem idleEdge_mapper : (idleEdge s).mapper = s.mapper := rfl
@[simp] theorem idleEdge_inputs : (idleEdge s).inputs = s.inputs := rfl

@[simp] theorem deq_phase (e : EncState) : (deq e).phase = e.phase := rfl
@[simp] theorem deq_pending (e : EncState) : (deq e).pending = e.pending := rfl
@[simp] theorem deq_qlen (e : EncState) : (deq e).qlen = e.qlen - 1#2 := rfl
@[simp] theorem deq_q0 (e : EncState) : (deq e).q0 = e.q1 := rfl
@[simp] theorem deq_q1 (e : EncState) : (deq e).q1 = 0x00#8 := rfl
@[simp] theorem deq_stage (e : EncState) : (deq e).stage = e.stage := rfl
@[simp] theorem deq_fault (e : EncState) : (deq e).fault = e.fault := rfl

@[simp] theorem fillSlot_phase (b : Byte) (d : DecState) : (fillSlot b d).phase = d.phase := rfl
@[simp] theorem fillSlot_pendingBits (b : Byte) (d : DecState) : (fillSlot b d).pendingBits = d.pendingBits := rfl
@[simp] theorem fillSlot_paddingSeen (b : Byte) (d : DecState) : (fillSlot b d).paddingSeen = d.paddingSeen := rfl
@[simp] theorem fillSlot_slotValid (b : Byte) (d : DecState) : (fillSlot b d).slotValid = true := rfl
@[simp] theorem fillSlot_slot (b : Byte) (d : DecState) : (fillSlot b d).slot = b := rfl
@[simp] theorem fillSlot_stage (b : Byte) (d : DecState) : (fillSlot b d).stage = d.stage := rfl
@[simp] theorem fillSlot_fault (b : Byte) (d : DecState) : (fillSlot b d).fault = d.fault := rfl

@[simp] theorem emptySlot_phase (d : DecState) : (emptySlot d).phase = d.phase := rfl
@[simp] theorem emptySlot_pendingBits (d : DecState) : (emptySlot d).pendingBits = d.pendingBits := rfl
@[simp] theorem emptySlot_paddingSeen (d : DecState) : (emptySlot d).paddingSeen = d.paddingSeen := rfl
@[simp] theorem emptySlot_slotValid (d : DecState) : (emptySlot d).slotValid = false := rfl
@[simp] theorem emptySlot_slot (d : DecState) : (emptySlot d).slot = 0x00#8 := rfl
@[simp] theorem emptySlot_stage (d : DecState) : (emptySlot d).stage = d.stage := rfl
@[simp] theorem emptySlot_fault (d : DecState) : (emptySlot d).fault = d.fault := rfl

end Sys2Proof.Machine
end

