-- ==== Sys2Proof/Laws/Ops.lean ====
section
/-! SUPPORT. What each shared operation does, said once: the queue, raising a fault, the freeze, one transaction on one
instance, and how an instruction is one transaction on its own unit. -/

namespace Sys2Proof.Machine

/-! ### The queue (R23) -/

/-- `enq` on an empty queue fills the head. -/
theorem enq_of_empty (c : Byte) (e : EncState) (h : e.qlen = 0#2) : enq c e = { e with q0 := c, qlen := 1#2 } := by
  simp [enq, h]

/-- Two `enq` on an empty queue fill both places in the order written. -/
theorem enq_enq_of_empty (c d : Byte) (e : EncState) (h : e.qlen = 0#2) :
    enq d (enq c e) = { e with q0 := c, q1 := d, qlen := 2#2 } := by
  simp [enq, h]

/-! ### Faults (R146) -/

theorem unlessFaultedEnc_of_fault (f : EncState → EncState × Response) (e : EncState) (h : e.fault ≠ 0#3) :
    unlessFaultedEnc f e = (e, Response.zero) := if_neg h

theorem unlessFaultedEnc_of_no_fault (f : EncState → EncState × Response) (e : EncState) (h : e.fault = 0#3) :
    unlessFaultedEnc f e = f e := if_pos h

theorem unlessFaultedDec_of_fault (f : DecState → DecState × Response) (d : DecState) (h : d.fault ≠ 0#3) :
    unlessFaultedDec f d = (d, Response.zero) := if_neg h

theorem unlessFaultedDec_of_no_fault (f : DecState → DecState × Response) (d : DecState) (h : d.fault = 0#3) :
    unlessFaultedDec f d = f d := if_pos h

/-! ### One transaction (R6, R151) -/

theorem encTransaction_of_instance {n : Nat} {s : State} {x : EncInstance} (f : EncState → EncState × Response)
    (h : s.encs[n]? = some x) :
    encTransaction n f s = .next (setEnc n { reg := (f x.reg).1, out := (f x.reg).2 } s) := by
  simp [encTransaction, h]

theorem decTransaction_of_instance {n : Nat} {s : State} {x : DecInstance} (f : DecState → DecState × Response)
    (h : s.decs[n]? = some x) :
    decTransaction n f s = .next (setDec n { reg := (f x.reg).1, out := (f x.reg).2 } s) := by
  simp [decTransaction, h]

/-- All that an encoder transaction which answers a next state can have done. -/
theorem encTransaction_next {n : Nat} {s t : State} {f : EncState → EncState × Response}
    (h : encTransaction n f s = .next t) :
    ∃ x, s.encs[n]? = some x ∧ t = setEnc n { reg := (f x.reg).1, out := (f x.reg).2 } s := by
  unfold encTransaction at h
  split at h
  · exact ⟨_, ‹_›, by simpa using h.symm⟩
  · simp at h

/-- All that a decoder transaction which answers a next state can have done. -/
theorem decTransaction_next {n : Nat} {s t : State} {f : DecState → DecState × Response}
    (h : decTransaction n f s = .next t) :
    ∃ x, s.decs[n]? = some x ∧ t = setDec n { reg := (f x.reg).1, out := (f x.reg).2 } s := by
  unfold decTransaction at h
  split at h
  · exact ⟨_, ‹_›, by simpa using h.symm⟩
  · simp at h

/-- Replacing one existing encoder instance changes that instance and nothing else. -/
theorem setEnc_only {n : Nat} {s : State} {x : EncInstance} (y : EncInstance) (h : s.encs[n]? = some x) :
    EncOnly s (setEnc n y s) n y := by
  have hn : n < s.encs.length := by
    rw [List.getElem?_eq_some_iff] at h
    exact h.1
  refine ⟨?_, ?_, ?_, rfl, rfl, rfl⟩
  · simp [hn]
  · intro m hm
    simp [List.getElem?_set_ne (Ne.symm hm)]
  · simp

/-- Replacing one existing decoder instance changes that instance and nothing else. -/
theorem setDec_only {n : Nat} {s : State} {x : DecInstance} (y : DecInstance) (h : s.decs[n]? = some x) :
    DecOnly s (setDec n y s) n y := by
  have hn : n < s.decs.length := by
    rw [List.getElem?_eq_some_iff] at h
    exact h.1
  refine ⟨?_, ?_, ?_, rfl, rfl, rfl⟩
  · simp [hn]
  · intro m hm
    simp [List.getElem?_set_ne (Ne.symm hm)]
  · simp

/-! ### An instruction is one transaction on its own unit -/

/-- The function of an encoder instruction on its instance, the freeze included. -/
def encEffect : Instr → EncState → EncState × Response
  | .encNop _ => unlessFaultedEnc encNopStep
  | .encReset _ => resetEncoder
  | .encIngest _ b => unlessFaultedEnc (encIngestStep b)
  | .encGetc _ => unlessFaultedEnc encGetcStep
  | .encFinish _ => unlessFaultedEnc encFinishStep
  | .encPad _ => unlessFaultedEnc encPadStep
  | .encIllegal _ _ => unlessFaultedEnc encIllegalStep
  | .decNop _ | .decReset _ | .decIngest _ _ | .decGetc _ | .decFinish _ | .decIllegal101 _ _
  | .decIllegal11x _ _ | .lutEnc _ | .lutDec _ => fun e => (e, Response.zero)

/-- The function of a decoder instruction on its instance, the freeze included. -/
def decEffect : Instr → DecState → DecState × Response
  | .decNop _ => unlessFaultedDec decNopStep
  | .decReset _ => resetDecoder
  | .decIngest _ c => unlessFaultedDec (decIngestStep c)
  | .decGetc _ => unlessFaultedDec decGetcStep
  | .decFinish _ => unlessFaultedDec decFinishStep
  | .decIllegal101 _ _ => unlessFaultedDec decIllegalStep
  | .decIllegal11x _ _ => unlessFaultedDec decIllegalStep
  | .encNop _ | .encReset _ | .encIngest _ _ | .encGetc _ | .encFinish _ | .encPad _ | .encIllegal _ _
  | .lutEnc _ | .lutDec _ => fun d => (d, Response.zero)

/-- An instruction on encoder `n`'s port is one transaction of encoder `n`. -/
theorem exec_of_enc {i : Instr} {n : Nat} (h : unitOf i = .enc n) (s : State) :
    exec i s = encTransaction n (encEffect i) s := by
  cases i <;> simp only [unitOf, UnitId.enc.injEq, reduceCtorEq] at h <;> subst h <;> rfl

/-- An instruction on decoder `n`'s port is one transaction of decoder `n`. -/
theorem exec_of_dec {i : Instr} {n : Nat} (h : unitOf i = .dec n) (s : State) :
    exec i s = decTransaction n (decEffect i) s := by
  cases i <;> simp only [unitOf, UnitId.dec.injEq, reduceCtorEq] at h <;> subst h <;> rfl

/-- All that a next state can be: one transaction of one instance, or one driven pin of the mapper. -/
theorem exec_next_cases {i : Instr} {s t : State} (h : exec i s = .next t) :
    (∃ n x, unitOf i = .enc n ∧ s.encs[n]? = some x ∧
      t = setEnc n { reg := (encEffect i x.reg).1, out := (encEffect i x.reg).2 } s) ∨
    (∃ n x, unitOf i = .dec n ∧ s.decs[n]? = some x ∧
      t = setDec n { reg := (decEffect i x.reg).1, out := (decEffect i x.reg).2 } s) ∨
    (∃ v, i = .lutEnc v ∧ t = driveEncSym v s) ∨ (∃ c, i = .lutDec c ∧ t = driveDecChar c s) := by
  rcases hu : unitOf i with n | n | _ | _
  · rw [exec_of_enc hu] at h
    obtain ⟨x, hx, ht⟩ := encTransaction_next h
    exact .inl ⟨n, x, rfl, hx, ht⟩
  · rw [exec_of_dec hu] at h
    obtain ⟨x, hx, ht⟩ := decTransaction_next h
    exact .inr (.inl ⟨n, x, rfl, hx, ht⟩)
  · cases i <;> simp only [unitOf, reduceCtorEq] at hu
    exact .inr (.inr (.inl ⟨_, rfl, by simpa [exec, execLutEnc] using h.symm⟩))
  · cases i <;> simp only [unitOf, reduceCtorEq] at hu
    exact .inr (.inr (.inr ⟨_, rfl, by simpa [exec, execLutDec] using h.symm⟩))

/-- An encoder instruction on an existing instance completes, changing that instance as `encEffect` says. -/
theorem exec_enc_goes {i : Instr} {n : Nat} {s : State} {x : EncInstance} {e : EncState} {count : BitVec 2} {dout : Byte}
    (hu : unitOf i = .enc n) (hx : s.encs[n]? = some x)
    (he : encEffect i x.reg = (e, { count := count, dout := dout })) : EncGoes i s n e count dout :=
  ⟨_, by rw [exec_of_enc hu, encTransaction_of_instance _ hx], by rw [he]; exact setEnc_only _ hx⟩

/-- A decoder instruction on an existing instance completes, changing that instance as `decEffect` says. -/
theorem exec_dec_goes {i : Instr} {n : Nat} {s : State} {x : DecInstance} {d : DecState} {count : BitVec 2} {dout : Byte}
    (hu : unitOf i = .dec n) (hx : s.decs[n]? = some x)
    (hd : decEffect i x.reg = (d, { count := count, dout := dout })) : DecGoes i s n d count dout :=
  ⟨_, by rw [exec_of_dec hu, decTransaction_of_instance _ hx], by rw [hd]; exact setDec_only _ hx⟩

/-- What encoder instance `n` is after any instruction: its own transaction's result, or unchanged. -/
theorem exec_enc_after {i : Instr} {s t : State} {n : Nat} {x y : EncInstance} (h : exec i s = .next t)
    (hx : s.encs[n]? = some x) (hy : t.encs[n]? = some y) :
    (unitOf i = .enc n ∧ y = { reg := (encEffect i x.reg).1, out := (encEffect i x.reg).2 }) ∨
      (unitOf i ≠ .enc n ∧ y = x) := by
  rcases exec_next_cases h with ⟨m, z, hu, hz, rfl⟩ | ⟨m, z, hu, hz, rfl⟩ | ⟨v, rfl, rfl⟩ | ⟨v, rfl, rfl⟩
  · by_cases hm : m = n
    · subst hm
      rw [hx] at hz
      cases hz
      rw [(setEnc_only _ hx).1] at hy
      cases hy
      exact .inl ⟨hu, rfl⟩
    · rw [(setEnc_only _ hz).2.1 n (Ne.symm hm), hx] at hy
      cases hy
      exact .inr ⟨by rw [hu]; simpa using hm, rfl⟩
  · simp only [setDec_encs, hx, Option.some.injEq] at hy
    exact .inr ⟨by simp [hu], hy.symm⟩
  · simp only [driveEncSym_encs, hx, Option.some.injEq] at hy
    exact .inr ⟨by simp [unitOf], hy.symm⟩
  · simp only [driveDecChar_encs, hx, Option.some.injEq] at hy
    exact .inr ⟨by simp [unitOf], hy.symm⟩

/-- What decoder instance `n` is after any instruction: its own transaction's result, or unchanged. -/
theorem exec_dec_after {i : Instr} {s t : State} {n : Nat} {x y : DecInstance} (h : exec i s = .next t)
    (hx : s.decs[n]? = some x) (hy : t.decs[n]? = some y) :
    (unitOf i = .dec n ∧ y = { reg := (decEffect i x.reg).1, out := (decEffect i x.reg).2 }) ∨
      (unitOf i ≠ .dec n ∧ y = x) := by
  rcases exec_next_cases h with ⟨m, z, hu, hz, rfl⟩ | ⟨m, z, hu, hz, rfl⟩ | ⟨v, rfl, rfl⟩ | ⟨v, rfl, rfl⟩
  · simp only [setEnc_decs, hx, Option.some.injEq] at hy
    exact .inr ⟨by simp [hu], hy.symm⟩
  · by_cases hm : m = n
    · subst hm
      rw [hx] at hz
      cases hz
      rw [(setDec_only _ hx).1] at hy
      cases hy
      exact .inl ⟨hu, rfl⟩
    · rw [(setDec_only _ hz).2.1 n (Ne.symm hm), hx] at hy
      cases hy
      exact .inr ⟨by rw [hu]; simpa using hm, rfl⟩
  · simp only [driveEncSym_decs, hx, Option.some.injEq] at hy
    exact .inr ⟨by simp [unitOf], hy.symm⟩
  · simp only [driveDecChar_decs, hx, Option.some.injEq] at hy
    exact .inr ⟨by simp [unitOf], hy.symm⟩

/-! ### The step -/

theorem step_of_input {s : State} {p : PortInput} {rest : List PortInput} (h : s.inputs = p :: rest) :
    step s = exec (decodeInput p) { s with inputs := rest } := by
  simp [step, fetch, h]

theorem step_of_no_input {s : State} (h : s.inputs = []) : step s = .next (idleEdge s) := by
  simp [step, fetch, h]

end Sys2Proof.Machine
end

