-- ==== Sys2Proof/Laws/PerInstr.lean ====
section
/-! SUPPORT. The per-instruction family `TableRow`: the canonical port value of a well-formed instruction is what its row
of `opcode_table.json` describes (`30_encoding.md` R74 to R77). -/

namespace Sys2Proof.Laws.TableRow

/-- A row of that mnemonic and port selects the word. -/
def HasRow (m : String) (port : PortKind) (w : CmdWord) : Prop :=
  ∃ r ∈ commandRows, r.mnemonic = m ∧ r.selects port w = true

/-- On its port, with `rst` low, the canonical word of the instruction is one its own table row selects; the two lookups
are on the mapper's ports and are named as their rows are. -/
def Statement (i : Instr) : Prop :=
  WellFormed i = true →
    match encodeInput i with
    | .encPort _ rst w => rst = false ∧ HasRow (mnemonicOf i) .encCw w
    | .decPort _ rst w => rst = false ∧ HasRow (mnemonicOf i) .decCw w
    | .encSym _ => mnemonicOf i = "LUT.ENC"
    | .decChar _ => mnemonicOf i = "LUT.DEC"

/-- A command word is selected by the row whose pattern is its opcode. -/
theorem and_opcodeMask (op : BitVec 3) (opd : Byte) : cmdWord op opd &&& 0x700#11 = cmdWord op 0#8 := by
  revert op opd
  decide +kernel

theorem encNop (n : Nat) : Statement (.encNop n) :=
  fun _ => ⟨rfl, ⟨"ENC.NOP", .encCw, 0x700#11, 0x000#11⟩, by decide, rfl, by decide⟩

theorem encReset (n : Nat) : Statement (.encReset n) :=
  fun _ => ⟨rfl, ⟨"ENC.RESET", .encCw, 0x700#11, 0x100#11⟩, by decide, rfl, by decide⟩

theorem encIngest (n : Nat) (b : Byte) : Statement (.encIngest n b) :=
  fun _ => ⟨rfl, ⟨"ENC.INGEST", .encCw, 0x700#11, 0x200#11⟩, by decide, rfl, by
    simp only [OpcodeRow.selects, and_opcodeMask]; decide⟩

theorem encGetc (n : Nat) : Statement (.encGetc n) :=
  fun _ => ⟨rfl, ⟨"ENC.GETC", .encCw, 0x700#11, 0x300#11⟩, by decide, rfl, by decide⟩

theorem encFinish (n : Nat) : Statement (.encFinish n) :=
  fun _ => ⟨rfl, ⟨"ENC.FINISH", .encCw, 0x700#11, 0x400#11⟩, by decide, rfl, by decide⟩

theorem encPad (n : Nat) : Statement (.encPad n) :=
  fun _ => ⟨rfl, ⟨"ENC.PAD", .encCw, 0x700#11, 0x500#11⟩, by decide, rfl, by decide⟩

theorem encIllegal (n : Nat) (w : CmdWord) : Statement (.encIllegal n w) :=
  fun h => ⟨rfl, ⟨"ENC.ILLEGAL", .encCw, 0x600#11, 0x600#11⟩, by decide, rfl, by
    simpa [OpcodeRow.selects, WellFormed, reserved11x] using h⟩

theorem decNop (n : Nat) : Statement (.decNop n) :=
  fun _ => ⟨rfl, ⟨"DEC.NOP", .decCw, 0x700#11, 0x000#11⟩, by decide, rfl, by decide⟩

theorem decReset (n : Nat) : Statement (.decReset n) :=
  fun _ => ⟨rfl, ⟨"DEC.RESET", .decCw, 0x700#11, 0x100#11⟩, by decide, rfl, by decide⟩

theorem decIngest (n : Nat) (c : Byte) : Statement (.decIngest n c) :=
  fun _ => ⟨rfl, ⟨"DEC.INGEST", .decCw, 0x700#11, 0x200#11⟩, by decide, rfl, by
    simp only [OpcodeRow.selects, and_opcodeMask]; decide⟩

theorem decGetc (n : Nat) : Statement (.decGetc n) :=
  fun _ => ⟨rfl, ⟨"DEC.GETC", .decCw, 0x700#11, 0x300#11⟩, by decide, rfl, by decide⟩

theorem decFinish (n : Nat) : Statement (.decFinish n) :=
  fun _ => ⟨rfl, ⟨"DEC.FINISH", .decCw, 0x700#11, 0x400#11⟩, by decide, rfl, by decide⟩

theorem decIllegal101 (n : Nat) (w : CmdWord) : Statement (.decIllegal101 n w) :=
  fun h => ⟨rfl, ⟨"DEC.ILLEGAL.101", .decCw, 0x700#11, 0x500#11⟩, by decide, rfl, by
    simpa [OpcodeRow.selects, WellFormed, reserved101] using h⟩

theorem decIllegal11x (n : Nat) (w : CmdWord) : Statement (.decIllegal11x n w) :=
  fun h => ⟨rfl, ⟨"DEC.ILLEGAL.11x", .decCw, 0x600#11, 0x600#11⟩, by decide, rfl, by
    simpa [OpcodeRow.selects, WellFormed, reserved11x] using h⟩

theorem lutEnc (i : Sym) : Statement (.lutEnc i) := fun _ => rfl

theorem lutDec (c : Byte) : Statement (.lutDec c) := fun _ => rfl

end Sys2Proof.Laws.TableRow
end

