-- ==== Sys2Proof/Laws/Steps.lean ====
section
/-! SUPPORT. What each command can do to its instance, said once: an exhaustive case list per command function, each case with
its conditions and the whole result. Later proofs cite these instead of unfolding the command functions. -/

namespace Sys2Proof.Machine

theorem phase_cases (p : BitVec 2) : p = 0#2 ∨ p = 1#2 ∨ p = 2#2 ∨ p = 3#2 := by
  revert p
  decide

/-- The cases of ENC.INGEST (R103, R162). -/
theorem encIngestStep_cases (b : Byte) (e : EncState) :
    (e.stage ≠ 0#2 ∧ encIngestStep b e = raiseEnc 2#3 e) ∨
    (e.stage = 0#2 ∧ e.qlen ≠ 0#2 ∧ encIngestStep b e = raiseEnc 1#3 e) ∨
    (e.stage = 0#2 ∧ e.qlen = 0#2 ∧ e.phase = 0#2 ∧ encIngestStep b e =
      ({ e with phase := 1#2, pending := b, qlen := 1#2, q0 := lutEnc (symPhase0 b) }, ⟨1#2, 0#8⟩)) ∨
    (e.stage = 0#2 ∧ e.qlen = 0#2 ∧ e.phase = 1#2 ∧ encIngestStep b e =
      ({ e with phase := 2#2, pending := b, qlen := 1#2, q0 := lutEnc (symPhase1 e.pending b) }, ⟨1#2, 0#8⟩)) ∨
    (e.stage = 0#2 ∧ e.qlen = 0#2 ∧ e.phase = 2#2 ∧ encIngestStep b e =
      ({ e with phase := 0#2, pending := b, qlen := 2#2, q0 := lutEnc (symPhase2 e.pending b),
                q1 := lutEnc (symLast b) }, ⟨2#2, 0#8⟩)) ∨
    (e.stage = 0#2 ∧ e.qlen = 0#2 ∧ e.phase = 3#2 ∧ encIngestStep b e = raiseEnc 5#3 e) := by
  by_cases hs : e.stage = 0#2
  · by_cases hq : e.qlen = 0#2
    · rcases phase_cases e.phase with h | h | h | h <;>
        simp [encIngestStep, encActive, encDrained, stageActive, hs, hq, h, enq, illegalCmd]
    · simp [encIngestStep, encActive, encDrained, stageActive, hs, hq, misuseUndrained]
  · simp [encIngestStep, encActive, stageActive, hs, misuseOrder]

/-- The cases of ENC.GETC (R104). -/
theorem encGetcStep_cases (e : EncState) :
    (e.qlen = 0#2 ∧ encGetcStep e = raiseEnc 3#3 e) ∨
    (e.qlen ≠ 0#2 ∧ encGetcStep e = (deq e, ⟨0#2, e.q0⟩)) := by
  by_cases hq : e.qlen = 0#2 <;> simp [encGetcStep, encDrained, hq, misuseEmptyGetc]

/-- The cases of ENC.FINISH (R105, R162). -/
theorem encFinishStep_cases (e : EncState) :
    (e.stage ≠ 0#2 ∧ encFinishStep e = raiseEnc 2#3 e) ∨
    (e.stage = 0#2 ∧ e.qlen ≠ 0#2 ∧ encFinishStep e = raiseEnc 1#3 e) ∨
    (e.stage = 0#2 ∧ e.qlen = 0#2 ∧ e.phase = 0#2 ∧ encFinishStep e =
      ({ e with pending := 0#8, stage := 1#2 }, ⟨0#2, 0#8⟩)) ∨
    (e.stage = 0#2 ∧ e.qlen = 0#2 ∧ e.phase = 1#2 ∧ encFinishStep e =
      ({ e with pending := 0#8, stage := 1#2, qlen := 1#2, q0 := lutEnc (symFlush1 e.pending) }, ⟨1#2, 0#8⟩)) ∨
    (e.stage = 0#2 ∧ e.qlen = 0#2 ∧ e.phase = 2#2 ∧ encFinishStep e =
      ({ e with pending := 0#8, stage := 1#2, qlen := 1#2, q0 := lutEnc (symFlush2 e.pending) }, ⟨1#2, 0#8⟩)) ∨
    (e.stage = 0#2 ∧ e.qlen = 0#2 ∧ e.phase = 3#2 ∧ encFinishStep e = raiseEnc 5#3 e) := by
  by_cases hs : e.stage = 0#2
  · by_cases hq : e.qlen = 0#2
    · rcases phase_cases e.phase with h | h | h | h <;>
        simp [encFinishStep, encActive, encDrained, stageActive, stageFinished, hs, hq, h, enq, illegalCmd]
    · simp [encFinishStep, encActive, encDrained, stageActive, hs, hq, misuseUndrained]
  · simp [encFinishStep, encActive, stageActive, hs, misuseOrder]

/-- The cases of ENC.PAD (R106, R162). -/
theorem encPadStep_cases (e : EncState) :
    (e.stage ≠ 1#2 ∧ encPadStep e = raiseEnc 2#3 e) ∨
    (e.stage = 1#2 ∧ e.qlen ≠ 0#2 ∧ encPadStep e = raiseEnc 1#3 e) ∨
    (e.stage = 1#2 ∧ e.qlen = 0#2 ∧ e.phase = 0#2 ∧ encPadStep e =
      ({ e with phase := 0#2, stage := 2#2 }, ⟨0#2, 0#8⟩)) ∨
    (e.stage = 1#2 ∧ e.qlen = 0#2 ∧ e.phase = 1#2 ∧ encPadStep e =
      ({ e with phase := 0#2, stage := 2#2, qlen := 2#2, q0 := padChar, q1 := padChar }, ⟨2#2, 0#8⟩)) ∨
    (e.stage = 1#2 ∧ e.qlen = 0#2 ∧ e.phase = 2#2 ∧ encPadStep e =
      ({ e with phase := 0#2, stage := 2#2, qlen := 1#2, q0 := padChar }, ⟨1#2, 0#8⟩)) ∨
    (e.stage = 1#2 ∧ e.qlen = 0#2 ∧ e.phase = 3#2 ∧ encPadStep e = raiseEnc 5#3 e) := by
  by_cases hs : e.stage = 1#2
  · by_cases hq : e.qlen = 0#2
    · rcases phase_cases e.phase with h | h | h | h <;>
        simp [encPadStep, encFinished, encDrained, stageFinished, stagePadded, hs, hq, h, enq, illegalCmd]
    · simp [encPadStep, encFinished, encDrained, stageFinished, hs, hq, misuseUndrained]
  · simp [encPadStep, encFinished, stageFinished, hs, misuseOrder]

/-- The three classes of a character (R52, R53): in the alphabet, `=`, or neither. -/
theorem lutDec_classes (c : Byte) :
    ((lutDec c).valid = true ∧ (lutDec c).pad = false ∧ c ≠ padChar) ∨
    ((lutDec c).valid = false ∧ (lutDec c).pad = true ∧ c = padChar) ∨
    ((lutDec c).valid = false ∧ (lutDec c).pad = false ∧ c ≠ padChar) := by
  revert c
  decide +kernel

/-- The cases of DEC.INGEST (R123). -/
theorem decIngestStep_cases (c : Byte) (d : DecState) :
    (d.stage ≠ 0#1 ∧ decIngestStep c d = raiseDec 2#3 d) ∨
    (d.stage = 0#1 ∧ d.slotValid = true ∧ decIngestStep c d = raiseDec 1#3 d) ∨
    (d.stage = 0#1 ∧ d.slotValid = false ∧ inCodeSet c = false ∧ decIngestStep c d = raiseDec 4#3 d) ∨
    (d.stage = 0#1 ∧ d.slotValid = false ∧ c = padChar ∧
      decIngestStep c d = ({ d with phase := d.phase + 1#2, paddingSeen := true }, ⟨0#2, 0#8⟩)) ∨
    (d.stage = 0#1 ∧ d.slotValid = false ∧ isAlphabet c = true ∧ d.paddingSeen = true ∧
      decIngestStep c d = ({ d with phase := d.phase + 1#2 }, ⟨0#2, 0#8⟩)) ∨
    (d.stage = 0#1 ∧ d.slotValid = false ∧ isAlphabet c = true ∧ d.paddingSeen = false ∧ d.phase = 0#2 ∧
      decIngestStep c d = ({ d with phase := 1#2, pendingBits := (lutDec c).sym }, ⟨0#2, 0#8⟩)) ∨
    (d.stage = 0#1 ∧ d.slotValid = false ∧ isAlphabet c = true ∧ d.paddingSeen = false ∧ d.phase = 1#2 ∧
      decIngestStep c d = ({ d with phase := 2#2, pendingBits := (lutDec c).sym, slotValid := true,
                                    slot := bytePhase1 d.pendingBits (lutDec c).sym }, ⟨1#2, 0#8⟩)) ∨
    (d.stage = 0#1 ∧ d.slotValid = false ∧ isAlphabet c = true ∧ d.paddingSeen = false ∧ d.phase = 2#2 ∧
      decIngestStep c d = ({ d with phase := 3#2, pendingBits := (lutDec c).sym, slotValid := true,
                                    slot := bytePhase2 d.pendingBits (lutDec c).sym }, ⟨1#2, 0#8⟩)) ∨
    (d.stage = 0#1 ∧ d.slotValid = false ∧ isAlphabet c = true ∧ d.paddingSeen = false ∧ d.phase = 3#2 ∧
      decIngestStep c d = ({ d with phase := 0#2, pendingBits := (lutDec c).sym, slotValid := true,
                                    slot := bytePhase3 d.pendingBits (lutDec c).sym }, ⟨1#2, 0#8⟩)) := by
  by_cases hs : d.stage = 0#1
  · cases hv : d.slotValid
    · rcases lutDec_classes c with ⟨h1, h2, h3⟩ | ⟨h1, h2, h3⟩ | ⟨h1, h2, h3⟩
      · cases hp : d.paddingSeen
        · rcases phase_cases d.phase with h | h | h | h <;>
            simp [decIngestStep, decActive, decStageActive, hs, hv, h1, h2, h3, hp, h, isAlphabet, inCodeSet,
              nextDecPhase, decAccept, fillSlot]
        · simp [decIngestStep, decActive, decStageActive, hs, hv, h1, h2, hp, isAlphabet, nextDecPhase]
      · subst h3
        simp [decIngestStep, decActive, decStageActive, hs, hv, h1, h2, nextDecPhase]
      · simp [decIngestStep, decActive, decStageActive, hs, hv, h1, h2, h3, isAlphabet, inCodeSet, decodeErrorCode]
    · simp [decIngestStep, decActive, decStageActive, hs, hv, misuseUndrained]
  · simp [decIngestStep, decActive, decStageActive, hs, misuseOrder]

/-- The cases of DEC.GETC (R124). -/
theorem decGetcStep_cases (d : DecState) :
    (d.slotValid = false ∧ decGetcStep d = raiseDec 3#3 d) ∨
    (d.slotValid = true ∧ decGetcStep d = (emptySlot d, ⟨0#2, d.slot⟩)) := by
  cases h : d.slotValid <;> simp [decGetcStep, h, misuseEmptyGetc]

/-- The cases of DEC.FINISH (R125). -/
theorem decFinishStep_cases (d : DecState) :
    (d.stage ≠ 0#1 ∧ decFinishStep d = raiseDec 2#3 d) ∨
    (d.stage = 0#1 ∧ decFinishStep d =
      ({ d with phase := 0#2, pendingBits := 0#6, stage := 1#1 }, ⟨slotCount d, 0#8⟩)) := by
  by_cases h : d.stage = 0#1 <;>
    simp [decFinishStep, decActive, decStageActive, decStageFinished, h, misuseOrder]

end Sys2Proof.Machine
end

