-- ==== Sys2Proof/Tests/Slice0.lean ====
section
/-! SUPPORT. Small tests. Expected results are `spec/`'s own: words of `95_test_vectors.md` section 3 and R73 to R77 (W…),
single steps of its sections 4 to 6 (EV…, DV…, FV…), lookups of its section 2 (L…), strings of its section 1 (S…). The
witnesses show that the hypotheses of each obligation can be met, clause by clause. -/

namespace Sys2Proof.Tests

open Sys2Proof.Machine

/-! ### Helpers -/

/-- An encoder instance in state `e` whose output registers show a response no command gives. -/
def encI (e : EncState) : EncInstance := { reg := e, out := { count := 3#2, dout := 0xFF#8 } }

/-- A decoder instance in state `d` whose output registers show a response no command gives. -/
def decI (d : DecState) : DecInstance := { reg := d, out := { count := 3#2, dout := 0xFF#8 } }

/-- One encoder in state `e`, one decoder after reset. -/
def encM (e : EncState) : State := { State.reset with encs := [encI e] }

/-- One decoder in state `d`, one encoder after reset. -/
def decM (d : DecState) : State := { State.reset with decs := [decI d] }

/-- The encoder after one step in which the word `w` is on `e_cw` and `rst` is 0. -/
def encAfter (e : EncState) (w : CmdWord) : Option (List EncInstance) :=
  (nextState? (step (presentFirst (.encPort 0 false w) (encM e)))).map State.encs

/-- The decoder after one step in which the word `w` is on `d_cw` and `rst` is 0. -/
def decAfter (d : DecState) (w : CmdWord) : Option (List DecInstance) :=
  (nextState? (step (presentFirst (.decPort 0 false w) (decM d)))).map State.decs

/-! ### Well-formedness: each check refuses an ill-formed term -/

theorem test_wf_encIllegal_refuses_pad_word : WellFormed (.encIllegal 0 0x500#11) = false := by decide
theorem test_wf_encIllegal_accepts : WellFormed (.encIllegal 0 0x7FF#11) = true := by decide
theorem test_wf_decIllegal101_refuses_110 : WellFormed (.decIllegal101 0 0x600#11) = false := by decide
theorem test_wf_decIllegal101_accepts : WellFormed (.decIllegal101 0 0x5AA#11) = true := by decide
theorem test_wf_decIllegal11x_refuses_101 : WellFormed (.decIllegal11x 0 0x500#11) = false := by decide
theorem test_wf_decIllegal11x_accepts : WellFormed (.decIllegal11x 0 0x600#11) = true := by decide

/-! ### Decoding: one word per constructor, bit by bit from R73 to R77 -/

/-- W2. -/
theorem test_decode_encNop : decodeInput (.encPort 0 false 0b00011111111#11) = .encNop 0 := by decide
/-- W4. -/
theorem test_decode_encReset : decodeInput (.encPort 0 false 0b00110100101#11) = .encReset 0 := by decide
/-- W6. -/
theorem test_decode_encIngest : decodeInput (.encPort 0 false 0b01001100110#11) = .encIngest 0 0x66#8 := by decide
/-- W9. -/
theorem test_decode_encGetc : decodeInput (.encPort 0 false 0b01101111111#11) = .encGetc 0 := by decide
/-- W10. -/
theorem test_decode_encFinish : decodeInput (.encPort 0 false 0b10000000000#11) = .encFinish 0 := by decide
/-- W12. -/
theorem test_decode_encPad : decodeInput (.encPort 0 false 0b10111111111#11) = .encPad 0 := by decide
/-- W13. -/
theorem test_decode_encIllegal_110 : decodeInput (.encPort 0 false 0b11000000000#11) = .encIllegal 0 0x600#11 := by decide
/-- W15. -/
theorem test_decode_encIllegal_111 : decodeInput (.encPort 0 false 0b11111111111#11) = .encIllegal 0 0x7FF#11 := by decide
/-- W16. -/
theorem test_decode_decNop : decodeInput (.decPort 0 false 0b00000000000#11) = .decNop 0 := by decide
/-- W17. -/
theorem test_decode_decReset : decodeInput (.decPort 0 false 0b00100000000#11) = .decReset 0 := by decide
/-- W18. -/
theorem test_decode_decIngest : decodeInput (.decPort 0 false 0b01000111101#11) = .decIngest 0 0x3D#8 := by decide
/-- W20. -/
theorem test_decode_decGetc : decodeInput (.decPort 0 false 0b01100000000#11) = .decGetc 0 := by decide
/-- W21. -/
theorem test_decode_decFinish : decodeInput (.decPort 0 false 0b10000000000#11) = .decFinish 0 := by decide
/-- W23. -/
theorem test_decode_decIllegal101 : decodeInput (.decPort 0 false 0b10110101010#11) = .decIllegal101 0 0x5AA#11 := by decide
/-- W24. -/
theorem test_decode_decIllegal11x_110 : decodeInput (.decPort 0 false 0b11000000000#11) = .decIllegal11x 0 0x600#11 := by decide
/-- W25. -/
theorem test_decode_decIllegal11x_111 : decodeInput (.decPort 0 false 0b11111111111#11) = .decIllegal11x 0 0x7FF#11 := by decide
/-- R77: a lookup is selected by its port. -/
theorem test_decode_lookups :
    decodeInput (.encSym 63#6) = .lutEnc 63#6 ∧ decodeInput (.decChar 0x80#8) = .lutDec 0x80#8 := by decide
/-- R84: `rst` overrides the word. -/
theorem test_decode_rst :
    decodeInput (.encPort 2 true 0x7FF#11) = .encReset 2 ∧ decodeInput (.decPort 2 true 0x23D#11) = .decReset 2 := by decide
/-- Frames (log 10): port and instance above the 11 bits of the word, in bytes, the first the least significant. -/
theorem test_decodeBytes_ports :
    decodeBytes [0x66#8, 0x02#8] = .ok (.encIngest 0 0x66#8) ∧ decodeBytes [0x3D#8, 0x0A#8] = .ok (.decIngest 0 0x3D#8) ∧
    decodeBytes [0x3F#8, 0x10#8] = .ok (.lutEnc 63#6) ∧ decodeBytes [0xFF#8, 0x18#8] = .ok (.lutDec 0xFF#8) ∧
    decodeBytes [0x00#8, 0x23#8] = .ok (.encGetc 1) := by decide
/-- Frames no port can carry are rejected by name (log 10). -/
theorem test_decode_rejects_by_name :
    decode 0x1040 = .rejected .symbolTooWide ∧ decode 0x1900 = .rejected .charTooWide ∧
    decode 0x3000 = .rejected .mapperInstance := by decide
/-- The host's numbering (log 10): a bare 11-bit word is on `e_cw`, a row without bits is a lookup. -/
theorem test_decodeTableWord :
    decodeTableWord 16 0x500 = some (.encPad 0) ∧ decodeTableWord 16 0x0D00 = some (.decIllegal101 0 0x500#11) ∧
    decodeTableWord 0 0 = some (.lutEnc 0#6) ∧ decodeTableWord 8 0x100 = none := by decide

/-! ### One step of each command: at most two tests each -/

/-- EV2. -/
theorem test_encNop_EV2 : encAfter ⟨1, 0x66, 1, 0x5A, 0x00, 0, 0⟩ 0x000 =
    some [⟨⟨1, 0x66, 1, 0x5A, 0x00, 0, 0⟩, ⟨0, 0x00⟩⟩] := by decide
/-- FV42. -/
theorem test_encNop_FV42 : encAfter ⟨1, 0x66, 1, 0x5A, 0x00, 0, 1⟩ 0x000 =
    some [⟨⟨1, 0x66, 1, 0x5A, 0x00, 0, 1⟩, ⟨0, 0x00⟩⟩] := by decide
/-- EV3. -/
theorem test_encReset_EV3 : encAfter ⟨2, 0x6F, 1, 0x6D, 0x00, 0, 0⟩ 0x100 =
    some [⟨⟨0, 0x00, 0, 0x00, 0x00, 0, 0⟩, ⟨0, 0x00⟩⟩] := by decide
/-- FV43. -/
theorem test_encReset_FV43 : encAfter ⟨1, 0x66, 1, 0x5A, 0x00, 0, 1⟩ 0x100 =
    some [⟨⟨0, 0x00, 0, 0x00, 0x00, 0, 0⟩, ⟨0, 0x00⟩⟩] := by decide
/-- EV7. -/
theorem test_encIngest_EV7 : encAfter ⟨2, 0x6F, 0, 0x00, 0x00, 0, 0⟩ 0x26F =
    some [⟨⟨0, 0x6F, 2, 0x39, 0x76, 0, 0⟩, ⟨2, 0x00⟩⟩] := by decide
/-- EV15. -/
theorem test_encIngest_EV15 : encAfter ⟨1, 0xFC, 0, 0x00, 0x00, 0, 0⟩ 0x20F =
    some [⟨⟨2, 0x0F, 1, 0x41, 0x00, 0, 0⟩, ⟨1, 0x00⟩⟩] := by decide
/-- EV17. -/
theorem test_encGetc_EV17 : encAfter ⟨2, 0x6F, 2, 0x39, 0x76, 0, 0⟩ 0x300 =
    some [⟨⟨2, 0x6F, 1, 0x76, 0x00, 0, 0⟩, ⟨0, 0x39⟩⟩] := by decide
/-- FV12. -/
theorem test_encGetc_FV12 : encAfter ⟨1, 0x66, 0, 0x00, 0x00, 0, 0⟩ 0x300 =
    some [⟨⟨1, 0x66, 0, 0x00, 0x00, 0, 3⟩, ⟨0, 0x00⟩⟩] := by decide
/-- EV21. -/
theorem test_encFinish_EV21 : encAfter ⟨2, 0x6F, 0, 0x00, 0x00, 0, 0⟩ 0x400 =
    some [⟨⟨2, 0x00, 1, 0x38, 0x00, 1, 0⟩, ⟨1, 0x00⟩⟩] := by decide
/-- FV31. -/
theorem test_encFinish_FV31 : encAfter ⟨1, 0x00, 1, 0x67, 0x00, 1, 0⟩ 0x400 =
    some [⟨⟨1, 0x00, 1, 0x67, 0x00, 1, 2⟩, ⟨0, 0x00⟩⟩] := by decide
/-- EV26. -/
theorem test_encPad_EV26 : encAfter ⟨1, 0x00, 0, 0x00, 0x00, 1, 0⟩ 0x500 =
    some [⟨⟨0, 0x00, 2, 0x3D, 0x3D, 2, 0⟩, ⟨2, 0x00⟩⟩] := by decide
/-- FV7. -/
theorem test_encPad_FV7 : encAfter ⟨1, 0x66, 0, 0x00, 0x00, 0, 0⟩ 0x500 =
    some [⟨⟨1, 0x66, 0, 0x00, 0x00, 0, 2⟩, ⟨0, 0x00⟩⟩] := by decide
/-- FV14. -/
theorem test_encIllegal_FV14 : encAfter ⟨2, 0x6F, 1, 0x6D, 0x00, 0, 0⟩ 0x7FF =
    some [⟨⟨2, 0x6F, 1, 0x6D, 0x00, 0, 5⟩, ⟨0, 0x00⟩⟩] := by decide
/-- FV41. -/
theorem test_encIllegal_FV41 : encAfter ⟨1, 0x66, 1, 0x5A, 0x00, 0, 1⟩ 0x700 =
    some [⟨⟨1, 0x66, 1, 0x5A, 0x00, 0, 1⟩, ⟨0, 0x00⟩⟩] := by decide
/-- DV1. -/
theorem test_decNop_DV1 : decAfter ⟨0, 0, false, false, 0x00, 0, 0⟩ 0x000 =
    some [⟨⟨0, 0, false, false, 0x00, 0, 0⟩, ⟨0, 0x00⟩⟩] := by decide
/-- DV2. -/
theorem test_decReset_DV2 : decAfter ⟨3, 60, true, false, 0x00, 0, 0⟩ 0x100 =
    some [⟨⟨0, 0, false, false, 0x00, 0, 0⟩, ⟨0, 0x00⟩⟩] := by decide
/-- DV3. -/
theorem test_decReset_DV3 : decAfter ⟨2, 38, false, true, 0x66, 0, 1⟩ 0x100 =
    some [⟨⟨0, 0, false, false, 0x00, 0, 0⟩, ⟨0, 0x00⟩⟩] := by decide
/-- DV6. -/
theorem test_decIngest_DV6 : decAfter ⟨2, 38, false, false, 0x00, 0, 0⟩ 0x239 =
    some [⟨⟨3, 61, false, true, 0x6F, 0, 0⟩, ⟨1, 0x00⟩⟩] := by decide
/-- DV18. -/
theorem test_decIngest_DV18 : decAfter ⟨3, 32, true, false, 0x00, 0, 0⟩ 0x276 =
    some [⟨⟨0, 32, true, false, 0x00, 0, 0⟩, ⟨0, 0x00⟩⟩] := by decide
/-- DV22. -/
theorem test_decGetc_DV22 : decAfter ⟨2, 0, false, true, 0x00, 0, 0⟩ 0x300 =
    some [⟨⟨2, 0, false, false, 0x00, 0, 0⟩, ⟨0, 0x00⟩⟩] := by decide
/-- FV19. -/
theorem test_decGetc_FV19 : decAfter ⟨0, 0, false, false, 0x00, 0, 0⟩ 0x300 =
    some [⟨⟨0, 0, false, false, 0x00, 0, 3⟩, ⟨0, 0x00⟩⟩] := by decide
/-- DV28. -/
theorem test_decFinish_DV28 : decAfter ⟨2, 32, false, true, 0x66, 0, 0⟩ 0x400 =
    some [⟨⟨0, 0, false, true, 0x66, 1, 0⟩, ⟨1, 0x00⟩⟩] := by decide
/-- FV18. -/
theorem test_decFinish_FV18 : decAfter ⟨0, 0, false, false, 0x00, 1, 0⟩ 0x400 =
    some [⟨⟨0, 0, false, false, 0x00, 1, 2⟩, ⟨0, 0x00⟩⟩] := by decide
/-- FV27. -/
theorem test_decIllegal101_FV27 : decAfter ⟨0, 0, false, false, 0x00, 0, 0⟩ 0x500 =
    some [⟨⟨0, 0, false, false, 0x00, 0, 5⟩, ⟨0, 0x00⟩⟩] := by decide
/-- FV28. -/
theorem test_decIllegal11x_FV28 : decAfter ⟨0, 0, false, false, 0x00, 0, 0⟩ 0x600 =
    some [⟨⟨0, 0, false, false, 0x00, 0, 5⟩, ⟨0, 0x00⟩⟩] := by decide
/-- FV29. -/
theorem test_decIllegal11x_FV29 : decAfter ⟨1, 25, false, false, 0x00, 0, 0⟩ 0x712 =
    some [⟨⟨1, 25, false, false, 0x00, 0, 5⟩, ⟨0, 0x00⟩⟩] := by decide
/-- L7, L8. -/
theorem test_lutEnc_L7_L8 :
    (nextState? (exec (.lutEnc 62#6) State.reset)).map encCharPin = some 0x2D#8 ∧
    (nextState? (exec (.lutEnc 63#6) State.reset)).map encCharPin = some 0x5F#8 := by decide
/-- L15, L18. -/
theorem test_lutDec_L15_L18 :
    (nextState? (exec (.lutDec 0x39#8) State.reset)).map decPins = some ⟨61#6, true, false⟩ ∧
    (nextState? (exec (.lutDec 0x3D#8) State.reset)).map decPins = some ⟨0#6, false, true⟩ := by decide
/-- L19, L32. -/
theorem test_lutDec_L19_L32 :
    (nextState? (exec (.lutDec 0x2B#8) State.reset)).map decPins = some ⟨0#6, false, false⟩ ∧
    (nextState? (exec (.lutDec 0xFF#8) State.reset)).map decPins = some ⟨0#6, false, false⟩ := by decide
/-- FV end of section 6: `rst` with the all-ones word, from any state, records no fault. -/
theorem test_rst_pin :
    (nextState? (step (presentFirst (.encPort 0 true 0x7FF#11) (encM ⟨1, 0x66, 1, 0x5A, 0, 0, 1⟩)))).map State.encs =
      some [EncInstance.reset] := by decide

/-! ### Strings of the source (S…) and text -/

/-- S2, S3: what the specification function of the claims gives. -/
theorem test_base64url_S2_S3 :
    base64url [0x66#8] = [0x5A#8, 0x67#8] ∧ base64url [0x66#8, 0x6F#8] = [0x5A#8, 0x6D#8, 0x38#8] := by decide
/-- S4. -/
theorem test_base64url_S4 : base64url [0x66#8, 0x6F#8, 0x6F#8] = [0x5A#8, 0x6D#8, 0x39#8, 0x76#8] := by decide
/-- S8: ENCODE_PADDED of one byte through the machine. -/
theorem test_encode_padded_S8 :
    (runEncodePadded 0 [0x66#8] State.reset).map Prod.fst = some [0x5A#8, 0x67#8, 0x3D#8, 0x3D#8] := by decide
/-- R80: the three spellings of one operand, with blanks and a comment. -/
theorem test_assemble_operands :
    assemble (txtEncIngest ++ [' ', '0', 'x', '6', '6']) = some (.enc, 0x266#11) ∧
    assemble (txtEncIngest ++ [' ', '1', '0', '2']) = some (.enc, 0x266#11) ∧
    assemble (txtEncIngest ++ [' ', '\'', 'f', '\'', ' ', ';', ' ', 'x']) = some (.enc, 0x266#11) := by decide
/-- W13, W22: reserved words print as ILLEGAL with the word in hexadecimal. -/
theorem test_disassemble_reserved :
    disassemble .enc 0x600#11 = txtEncIllegal ++ [' ', '0', 'x', '6', '0', '0'] ∧
    disassemble .dec 0x500#11 = txtDecIllegal ++ [' ', '0', 'x', '5', '0', '0'] := by decide

/-! ### Witnesses: the hypotheses of each obligation can be met -/

/-- An encoder mid-group with a drained queue; phases 0, 1, 2 and the unreachable 3. -/
def eAct (phase : BitVec 2) : EncState := ⟨phase, 0x66, 0, 0, 0, 0, 0⟩
/-- A decoder mid-group with an empty slot. -/
def dAct (phase : BitVec 2) (padding : Bool) : DecState := ⟨phase, 25, padding, false, 0, 0, 0⟩
/-- An encoder in FINISHED with one character queued. -/
def eFin : EncState := ⟨1, 0, 1, 0x67, 0, 1, 0⟩
/-- An encoder in PADDED with two characters queued. -/
def ePad : EncState := ⟨0, 0, 2, 0x3D, 0x3D, 2, 0⟩
/-- A faulted encoder with a character queued (FV38). -/
def eFault : EncState := ⟨1, 0x66, 1, 0x5A, 0, 0, 1⟩
/-- A decoder with a byte in its slot. -/
def dFull : DecState := ⟨2, 32, false, true, 0x66, 0, 0⟩
/-- A decoder in FINISHED with an undrained byte. -/
def dFin : DecState := ⟨0, 0, false, true, 0x66, 1, 0⟩
/-- A faulted decoder (FV44). -/
def dFault : DecState := ⟨1, 25, false, false, 0, 0, 4⟩

/-- `e` is the state of encoder 0 of a machine and records no fault: the premises the encoder rules share. -/
abbrev EncOk (e : EncState) : Prop := (encM e).encs[0]? = some (encI e) ∧ e.fault = 0
/-- `d` is the state of decoder 0 of a machine and records no fault: the premises the decoder rules share. -/
abbrev DecOk (d : DecState) : Prop := (decM d).decs[0]? = some (decI d) ∧ d.fault = 0

/-- `i` takes encoder 0 from `e` to a state `e'` of the same instance: the premises of the rules about any command. -/
abbrev EncRuns (i : Instr) (e e' : EncState) : Prop :=
  ∃ t y, unitOf i = .enc 0 ∧ exec i (encM e) = .next t ∧ (encM e).encs[0]? = some (encI e) ∧ t.encs[0]? = some y ∧ y.reg = e'

/-- The same for decoder 0. -/
abbrev DecRuns (i : Instr) (d d' : DecState) : Prop :=
  ∃ t y, unitOf i = .dec 0 ∧ exec i (decM d) = .next t ∧ (decM d).decs[0]? = some (decI d) ∧ t.decs[0]? = some y ∧ y.reg = d'

theorem witness_DecodeOfEncodeIsInstruction :
    WellFormed (.encIllegal 3 0x7FF#11) = true ∧ WellFormed (.decIllegal101 0 0x500#11) = true ∧
    WellFormed (.decIllegal11x 1 0x600#11) = true ∧ WellFormed (.encIngest 0 0xFF#8) = true ∧
    WellFormed (.lutDec 0xFF#8) = true := by decide

theorem witness_OperandIsTakenAsItStandsOrIgnored :
    (0x200#11).extractLsb' 8 3 = 2#3 ∧ (0x2FF#11).extractLsb' 8 3 = 2#3 ∧
    (0x5FF#11).extractLsb' 8 3 ≠ 2#3 ∧ (0x5FF#11).extractLsb' 8 3 = (0x500#11).extractLsb' 8 3 ∧
    (0x7FF#11).extractLsb' 8 3 = (0x700#11).extractLsb' 8 3 := by decide

theorem witness_StepExecutesTheDecodedSample :
    (presentFirst (.encPort 0 false 0x266#11) State.reset).inputs = .encPort 0 false 0x266#11 :: [] ∧
    WellFormed (.decIngest 0 0x3D#8) = true ∧
    (presentFirst (encodeInput (.decIngest 0 0x3D#8)) State.reset).inputs = encodeInput (.decIngest 0 0x3D#8) :: [] ∧
    decodeTableWord 16 0x7FF = some (.encIllegal 0 0x7FF#11) := by decide

theorem witness_RstPinActsAsReset :
    (presentFirst (.encPort 0 true 0x7FF#11) (encM eFault)).inputs = .encPort 0 true 0x7FF#11 :: [] ∧
    (presentFirst (.encPort 0 true 0x7FF#11) (encM eFault)).encs[0]? = some (encI eFault) ∧
    (presentFirst (.decPort 0 true 0x23D#11) (decM dFault)).inputs = .decPort 0 true 0x23D#11 :: [] ∧
    (presentFirst (.decPort 0 true 0x23D#11) (decM dFault)).decs[0]? = some (decI dFault) := by decide

theorem witness_IdleEdgeActsAsNopOnEveryPort :
    (encM eFault).inputs = [] ∧ (encM eFault).encs[0]? = some (encI eFault) ∧
    (decM dFull).inputs = [] ∧ (decM dFull).decs[0]? = some (decI dFull) := by decide

theorem witness_MissingInstanceStopsTheModel :
    unitOf (.encNop 1) = .enc 1 ∧ State.reset.encs.length ≤ 1 ∧ unitOf (.decReset 1) = .dec 1 ∧
    State.reset.decs.length ≤ 1 := by decide

theorem witness_ResetLeavesEveryFieldZero :
    EncInstance.reset ∈ State.reset.encs ∧ DecInstance.reset ∈ State.reset.decs := by decide

/-- The ends of the printed ranges, from L1 to L8. -/
theorem witness_EncRomIsThePrintedTable :
    encRom 0 = 0x41#8 ∧ encRom 25 = 0x5A#8 ∧ encRom 26 = 0x61#8 ∧ encRom 51 = 0x7A#8 ∧ encRom 52 = 0x30#8 ∧
    encRom 61 = 0x39#8 ∧ encRom 62 = 0x2D#8 ∧ encRom 63 = 0x5F#8 := by decide

/-- `+` is neither an entry of ENC_ROM nor `=`. -/
theorem witness_DecRomIsThePrintedGrid : (∀ i : Sym, encRom i ≠ 0x2B#8) ∧ 0x2B#8 ≠ 0x3D#8 ∧ decRom 0x2B#8 = 0x00#8 := by
  decide

/-- The ends of the valid ranges (L10 to L17) and their neighbours (L24 to L29). -/
theorem witness_LookupsAreInverse :
    (lutDec 0x41#8).valid = true ∧ (lutDec 0x5A#8).valid = true ∧ (lutDec 0x61#8).valid = true ∧
    (lutDec 0x7A#8).valid = true ∧ (lutDec 0x30#8).valid = true ∧ (lutDec 0x39#8).valid = true ∧
    (lutDec 0x40#8).valid = false ∧ (lutDec 0x5B#8).valid = false ∧ (lutDec 0x60#8).valid = false ∧
    (lutDec 0x7B#8).valid = false ∧ (lutDec 0x2E#8).valid = false ∧ (lutDec 0x3A#8).valid = false := by decide

theorem witness_LutDecShowsTheEntry : 0x80 ≤ (0x80#8).toNat ∧ 0x80 ≤ (0xFF#8).toNat := by decide

theorem witness_EncNopRule : EncOk eFin ∧ EncOk ePad ∧ (0x0FF#11).extractLsb' 8 3 = 0#3 := by decide

theorem witness_EncResetRule :
    (encM eFault).encs[0]? = some (encI eFault) ∧ (0x1A5#11).extractLsb' 8 3 = 1#3 := by decide

theorem witness_EncIngestRule :
    (EncOk eFin ∧ eFin.stage ≠ 0) ∧ (EncOk { eAct 0 with qlen := 1, q0 := 0x76 } ∧ (1#2) ≠ 0) ∧
    (EncOk { eAct 0 with qlen := 2, q0 := 0x39, q1 := 0x76 } ∧ (2#2) ≠ 0) ∧
    (EncOk (eAct 0) ∧ (eAct 0).stage = 0 ∧ (eAct 0).qlen = 0 ∧ (eAct 0).phase = 0) ∧
    (EncOk (eAct 1) ∧ (eAct 1).stage = 0 ∧ (eAct 1).qlen = 0 ∧ (eAct 1).phase = 1) ∧
    (EncOk (eAct 2) ∧ (eAct 2).stage = 0 ∧ (eAct 2).qlen = 0 ∧ (eAct 2).phase = 2) := by decide

theorem witness_EncGetcRule : (0x37F#11).extractLsb' 8 3 = 3#3 ∧
    (EncOk (eAct 1) ∧ (eAct 1).qlen = 0) ∧ (EncOk eFin ∧ eFin.qlen ≠ 0) ∧ (EncOk ePad ∧ ePad.qlen ≠ 0) := by decide

theorem witness_EncFinishRule : (0x4FF#11).extractLsb' 8 3 = 4#3 ∧
    (EncOk ePad ∧ ePad.stage ≠ 0) ∧ (EncOk { eAct 1 with qlen := 1, q0 := 0x5A } ∧ (1#2) ≠ 0) ∧
    (EncOk (eAct 0) ∧ (eAct 0).stage = 0 ∧ (eAct 0).qlen = 0 ∧ (eAct 0).phase = 0) ∧
    (EncOk (eAct 1) ∧ (eAct 1).phase = 1) ∧ (EncOk (eAct 2) ∧ (eAct 2).phase = 2) := by decide

theorem witness_EncPadRule : (0x5FF#11).extractLsb' 8 3 = 5#3 ∧
    (EncOk (eAct 0) ∧ (eAct 0).stage ≠ 1) ∧ (EncOk ePad ∧ ePad.stage ≠ 1) ∧
    (EncOk eFin ∧ eFin.stage = 1 ∧ eFin.qlen ≠ 0) ∧
    (∀ p ∈ [0#2, 1#2, 2#2], EncOk { eFin with phase := p, qlen := 0, q0 := 0 } ∧ p.toNat ≤ 2) := by decide

theorem witness_EncIllegalRule :
    EncOk eFin ∧ (0x600#11).extractLsb' 9 2 = 3#2 ∧ (0x7FF#11).extractLsb' 9 2 = 3#2 ∧
    (encM eFault).encs[0]? = some (encI eFault) ∧ eFault.fault ≠ 0 := by decide

theorem witness_EncFaultedIsFrozen :
    unitOf (.encGetc 0) = .enc 0 ∧ Instr.encGetc 0 ≠ .encReset 0 ∧ (encM eFault).encs[0]? = some (encI eFault) ∧
    eFault.fault ≠ 0 := by decide

theorem witness_EncMissingPhaseArmIsIllegal :
    (EncOk (eAct 3) ∧ (eAct 3).qlen = 0 ∧ (eAct 3).phase = 3 ∧ (eAct 3).stage = 0) ∧
    (EncOk { eAct 3 with stage := 1 } ∧ (eAct 3).qlen = 0) := by decide

theorem witness_DecNopRule : DecOk dFull ∧ DecOk dFin ∧ (0x0FF#11).extractLsb' 8 3 = 0#3 := by decide

theorem witness_DecResetRule :
    (decM dFault).decs[0]? = some (decI dFault) ∧ (0x1A5#11).extractLsb' 8 3 = 1#3 := by decide

theorem witness_DecIngestRule :
    (DecOk dFin ∧ dFin.stage ≠ 0) ∧ (DecOk dFull ∧ dFull.stage = 0 ∧ dFull.slotValid = true) ∧
    (DecOk (dAct 0 false) ∧ (dAct 0 false).stage = 0 ∧ (dAct 0 false).slotValid = false) ∧
    ((∀ i : Sym, lutEnc i ≠ 0x2B#8) ∧ 0x2B#8 ≠ 0x3D#8) ∧
    (0x5F#8 = lutEnc 63 ∧ DecOk (dAct 3 true) ∧ (dAct 3 true).paddingSeen = true) ∧
    (∀ p ∈ [0#2, 1#2, 2#2, 3#2], DecOk (dAct p false) ∧ (dAct p false).paddingSeen = false) := by decide

theorem witness_DecGetcRule : (0x37F#11).extractLsb' 8 3 = 3#3 ∧
    (DecOk (dAct 1 false) ∧ (dAct 1 false).slotValid = false) ∧ (DecOk dFull ∧ dFull.slotValid = true) := by decide

theorem witness_DecFinishRule : (0x4FF#11).extractLsb' 8 3 = 4#3 ∧
    (DecOk dFin ∧ dFin.stage ≠ 0) ∧ (DecOk dFull ∧ dFull.stage = 0) ∧ (DecOk (dAct 3 true) ∧ (dAct 3 true).stage = 0) := by
  decide

theorem witness_DecIllegalRule :
    DecOk dFull ∧ (0x5AA#11).extractLsb' 8 3 = 5#3 ∧ (0x600#11).extractLsb' 9 2 = 3#2 ∧
    (0x7FF#11).extractLsb' 9 2 = 3#2 ∧ (decM dFault).decs[0]? = some (decI dFault) ∧ dFault.fault ≠ 0 := by decide

theorem witness_DecFaultedIsFrozen :
    unitOf (.decFinish 0) = .dec 0 ∧ Instr.decFinish 0 ≠ .decReset 0 ∧ (decM dFault).decs[0]? = some (decI dFault) ∧
    dFault.fault ≠ 0 := by decide

/-- Legal states for each row of the table, faulted ones included; EV19, EV27, FV7, FV13 and FV40 give the results. -/
theorem witness_EncTransitionTable :
    EncRuns (.encFinish 0) EncState.reset ⟨0, 0, 0, 0, 0, 1, 0⟩ ∧
    EncRuns (.encPad 0) ⟨2, 0, 0, 0, 0, 1, 0⟩ ⟨0, 0, 1, 0x3D, 0, 2, 0⟩ ∧
    EncRuns (.encPad 0) (eAct 1) ⟨1, 0x66, 0, 0, 0, 0, 2⟩ ∧
    EncRuns (.encIllegal 0 0x600#11) EncState.reset ⟨0, 0, 0, 0, 0, 0, 5⟩ ∧
    EncRuns (.encFinish 0) eFault eFault :=
  ⟨⟨_, _, rfl, rfl, rfl, rfl, by decide⟩, ⟨_, _, rfl, rfl, rfl, rfl, by decide⟩, ⟨_, _, rfl, rfl, rfl, rfl, by decide⟩,
   ⟨_, _, rfl, rfl, rfl, rfl, by decide⟩, ⟨_, _, rfl, rfl, rfl, rfl, by decide⟩⟩

/-- One command for each code: FV16, FV18, FV19, FV21, FV27. -/
theorem witness_DecFaultCodesByPriority :
    DecRuns (.decIngest 0 0x41) dFull { dFull with fault := 1 } ∧ DecRuns (.decFinish 0) dFin { dFin with fault := 2 } ∧
    DecRuns (.decGetc 0) DecState.reset { DecState.reset with fault := 3 } ∧
    DecRuns (.decIngest 0 0x2B) DecState.reset { DecState.reset with fault := 4 } ∧
    DecRuns (.decIllegal101 0 0x500#11) DecState.reset { DecState.reset with fault := 5 } :=
  ⟨⟨_, _, rfl, rfl, rfl, rfl, by decide⟩, ⟨_, _, rfl, rfl, rfl, rfl, by decide⟩, ⟨_, _, rfl, rfl, rfl, rfl, by decide⟩,
   ⟨_, _, rfl, rfl, rfl, rfl, by decide⟩, ⟨_, _, rfl, rfl, rfl, rfl, by decide⟩⟩

/-- FV12 and FV24: from no fault to a fault; FV38 and FV45: ignored while faulted. -/
theorem witness_FaultsArePrecise :
    (EncRuns (.encGetc 0) eFault eFault ∧ eFault.fault ≠ 0 ∧ Instr.encGetc 0 ≠ .encReset 0) ∧
    (DecRuns (.decFinish 0) dFault dFault ∧ dFault.fault ≠ 0 ∧ Instr.decFinish 0 ≠ .decReset 0) ∧
    (EncRuns (.encGetc 0) (eAct 1) { eAct 1 with fault := 3 } ∧ (eAct 1).fault = 0 ∧ (3#3 : BitVec 3) ≠ 0) ∧
    (DecRuns (.decIngest 0 0x20) (dAct 3 false) { dAct 3 false with fault := 4 } ∧ (dAct 3 false).fault = 0) :=
  ⟨⟨⟨_, _, rfl, rfl, rfl, rfl, by decide⟩, by decide⟩, ⟨⟨_, _, rfl, rfl, rfl, rfl, by decide⟩, by decide⟩,
   ⟨⟨_, _, rfl, rfl, rfl, rfl, by decide⟩, by decide⟩, ⟨_, _, rfl, rfl, rfl, rfl, by decide⟩, by decide⟩

/-- FV38, FV43, FV45, FV47. -/
theorem witness_OnlyResetLeavesTheFaultedState :
    (EncRuns (.encGetc 0) eFault eFault ∧ EncRuns (.encReset 0) eFault EncState.reset ∧ eFault.fault ≠ 0) ∧
    (DecRuns (.decFinish 0) dFault dFault ∧ DecRuns (.decReset 0) dFault DecState.reset ∧ dFault.fault ≠ 0) :=
  ⟨⟨⟨_, _, rfl, rfl, rfl, rfl, by decide⟩, ⟨_, _, rfl, rfl, rfl, rfl, by decide⟩, by decide⟩,
   ⟨_, _, rfl, rfl, rfl, rfl, by decide⟩, ⟨_, _, rfl, rfl, rfl, rfl, by decide⟩, by decide⟩

/-- EV21, EV27, DV26, and a reset of a padded session. -/
theorem witness_StageMovesOnlyForwardUntilReset :
    EncRuns (.encFinish 0) ⟨2, 0x6F, 0, 0, 0, 0, 0⟩ ⟨2, 0, 1, 0x38, 0, 1, 0⟩ ∧
    EncRuns (.encPad 0) ⟨2, 0, 0, 0, 0, 1, 0⟩ ⟨0, 0, 1, 0x3D, 0, 2, 0⟩ ∧
    EncRuns (.encReset 0) ePad EncState.reset ∧
    DecRuns (.decFinish 0) ⟨3, 60, false, false, 0, 0, 0⟩ ⟨0, 0, false, false, 0, 1, 0⟩ ∧
    DecRuns (.decReset 0) dFin DecState.reset :=
  ⟨⟨_, _, rfl, rfl, rfl, rfl, by decide⟩, ⟨_, _, rfl, rfl, rfl, rfl, by decide⟩, ⟨_, _, rfl, rfl, rfl, rfl, by decide⟩,
   ⟨_, _, rfl, rfl, rfl, rfl, by decide⟩, ⟨_, _, rfl, rfl, rfl, rfl, by decide⟩⟩

/-- DV13, DV18, and a byte still in the slot while padding has been seen. -/
theorem witness_PaddingClosesTheStreamUntilReset :
    DecRuns (.decIngest 0 0x3D) DecState.reset ⟨1, 0, true, false, 0, 0, 0⟩ ∧
    DecRuns (.decIngest 0 0x76) ⟨3, 32, true, false, 0, 0, 0⟩ ⟨0, 32, true, false, 0, 0, 0⟩ ∧
    DecRuns (.decNop 0) ⟨3, 32, true, true, 0x66, 0, 0⟩ ⟨3, 32, true, true, 0x66, 0, 0⟩ :=
  ⟨⟨_, _, rfl, rfl, rfl, rfl, by decide⟩, ⟨_, _, rfl, rfl, rfl, rfl, by decide⟩, ⟨_, _, rfl, rfl, rfl, rfl, by decide⟩⟩

/-- EV7, EV12, EV17, EV20, EV26, DV5, DV21, DV28. -/
theorem witness_ResponseOfEveryCommand :
    EncRuns (.encFinish 0) (eAct 1) eFin ∧ EncRuns (.encPad 0) { eFin with qlen := 0, q0 := 0 } ePad ∧
    EncRuns (.encIngest 0 0x6F) ⟨2, 0x6F, 0, 0, 0, 0, 0⟩ ⟨0, 0x6F, 2, 0x39, 0x76, 0, 0⟩ ∧
    EncRuns (.encGetc 0) ⟨2, 0x6F, 2, 0x39, 0x76, 0, 0⟩ ⟨2, 0x6F, 1, 0x76, 0, 0, 0⟩ ∧
    EncRuns (.encGetc 0) (eAct 1) { eAct 1 with fault := 3 } ∧ EncRuns (.encNop 0) eFin eFin ∧
    DecRuns (.decIngest 0 0x67) (dAct 1 false) ⟨2, 32, false, true, 0x66, 0, 0⟩ ∧
    DecRuns (.decGetc 0) dFull ⟨2, 32, false, false, 0, 0, 0⟩ ∧
    DecRuns (.decFinish 0) dFull dFin ∧ DecRuns (.decNop 0) dFin dFin :=
  ⟨⟨_, _, rfl, rfl, rfl, rfl, by decide⟩, ⟨_, _, rfl, rfl, rfl, rfl, by decide⟩,
   ⟨_, _, rfl, rfl, rfl, rfl, by decide⟩, ⟨_, _, rfl, rfl, rfl, rfl, by decide⟩, ⟨_, _, rfl, rfl, rfl, rfl, by decide⟩,
   ⟨_, _, rfl, rfl, rfl, rfl, by decide⟩, ⟨_, _, rfl, rfl, rfl, rfl, by decide⟩, ⟨_, _, rfl, rfl, rfl, rfl, by decide⟩,
   ⟨_, _, rfl, rfl, rfl, rfl, by decide⟩, ⟨_, _, rfl, rfl, rfl, rfl, by decide⟩⟩

/-- Two encoders; a command on the second, in two machines that agree only on it. -/
theorem witness_InstancesAreIndependent :
    (∃ t, exec (.encGetc 1) { State.reset with encs := [encI eFault, encI eFin] } = .next t) ∧
    unitOf (.encGetc 1) = .enc 1 ∧ unitOf (.encGetc 1) ≠ .enc 0 ∧ unitOf (.encGetc 1) ≠ .dec 0 ∧
    ({ State.reset with encs := [encI eFault, encI eFin] } : State).encs[1]? =
      ({ State.reset with encs := [encI ePad, encI eFin], decs := [] } : State).encs[1]? ∧
    (∃ t, exec (.decGetc 0) (decM dFull) = .next t) ∧ unitOf (.decGetc 0) = .dec 0 ∧
    (decM dFull).decs[0]? = ({ decM dFull with encs := [] } : State).decs[0]? :=
  ⟨⟨_, rfl⟩, by decide, by decide, by decide, by decide, ⟨_, rfl⟩, by decide, by decide⟩

theorem witness_CommandsOnDifferentPortsCommute :
    unitOf (.encIngest 0 0x66) ≠ unitOf (.decIngest 0 0x5A) ∧
    (∃ t u, exec (.encIngest 0 0x66) State.reset = .next t ∧ exec (.decIngest 0 0x5A) t = .next u) ∧
    unitOf (.lutEnc 1) ≠ unitOf (.lutDec 1) ∧
    (∃ t u, exec (.lutEnc 1) State.reset = .next t ∧ exec (.lutDec 1) t = .next u) :=
  ⟨by decide, ⟨_, _, rfl, rfl⟩, by decide, ⟨_, _, rfl, rfl⟩⟩

/-- A full queue in ACTIVE, about to be drained. -/
theorem witness_EveryStepKeepsTheEncoderInvariants :
    EncsInv (encM ⟨0, 0x6F, 2, 0x39, 0x76, 0, 0⟩) ∧
    ∃ t, step (presentFirst (.encPort 0 false 0x300#11) (encM ⟨0, 0x6F, 2, 0x39, 0x76, 0, 0⟩)) = .next t :=
  ⟨by decide, _, rfl⟩

/-- FINISHED with one character and PADDED with two, both about to be drained. -/
theorem witness_EveryStepKeepsTheQueueByStage :
    EncsQueueInv (encM eFin) ∧ EncsQueueInv (encM ePad) ∧
    (∃ t, step (presentFirst (.encPort 0 false 0x300#11) (encM eFin)) = .next t) ∧
    (∃ t, step (presentFirst (.encPort 0 false 0x300#11) (encM ePad)) = .next t) :=
  ⟨by decide, by decide, ⟨_, rfl⟩, ⟨_, rfl⟩⟩

theorem witness_EveryStepKeepsTheDecoderInvariants :
    DecsInv (decM dFull) ∧ DecsInv (decM dFin) ∧
    (∃ t, step (presentFirst (.decPort 0 false 0x400#11) (decM dFull)) = .next t) ∧
    (∃ t, step (presentFirst (.decPort 0 false 0x300#11) (decM dFin)) = .next t) :=
  ⟨by decide, by decide, ⟨_, rfl⟩, ⟨_, rfl⟩⟩

/-- From states outside the invariants. -/
theorem witness_ResetEstablishesTheInvariants :
    EncRuns (.encReset 0) ⟨3, 3, 3, 3, 3, 3, 7⟩ EncState.reset ∧
    DecRuns (.decReset 0) ⟨3, 3, true, false, 3, 1, 7⟩ DecState.reset :=
  ⟨⟨_, _, rfl, rfl, rfl, rfl, by decide⟩, ⟨_, _, rfl, rfl, rfl, rfl, by decide⟩⟩

theorem witness_EncoderGroupLaw :
    EncOk (eAct 0) ∧ (eAct 0).stage = 0 ∧ (eAct 0).qlen = 0 ∧ (eAct 0).phase = 0 := by decide

/-- The second conjunct's premises, and a run of the first's from phase 0. -/
theorem witness_DecoderGroupLaw :
    (∃ r f t, issueDec 0 (.decIngest 0 0x5A) (decM (dAct 0 false)) = some (r, f, t)) ∧
    (∃ r f t, issueDec 0 (.decIngest 0 0x5A) (decM (dAct 3 false)) = some (r, f, t)) ∧
    DecOk (dAct 0 false) ∧ (dAct 0 false).stage = 0 ∧ (dAct 0 false).slotValid = false ∧
    (dAct 0 false).paddingSeen = false ∧ (dAct 0 false).phase = 0 :=
  ⟨⟨_, _, _, rfl⟩, ⟨_, _, _, rfl⟩, by decide⟩

theorem witness_EncodeProducesTheEncoding : 0 < (encM eFault).encs.length := by decide

theorem witness_EncodePaddedAppendsThePadding : 0 < (encM eFault).encs.length := by decide

/-- S2 and S8 through the machine. -/
theorem witness_OutputLengthsOfEncoding :
    (∃ t, runEncode 0 [0x66#8] State.reset = some ([0x5A#8, 0x67#8], t)) ∧
    (∃ t, runEncodePadded 0 [0x66#8] State.reset = some ([0x5A#8, 0x67#8, 0x3D#8, 0x3D#8], t)) :=
  ⟨⟨_, rfl⟩, ⟨_, rfl⟩⟩

theorem witness_DecodeFailsExactlyOnForeignCharacters :
    0 < (decM dFault).decs.length ∧ (∃ c ∈ [0x5A#8, 0x2B#8], inCodeSet c = false) ∧
    (∀ c ∈ [0x5A#8, 0x67#8, 0x3D#8], inCodeSet c = true) := by decide

theorem witness_PaddingAndWhatFollowsProduceNothing :
    0 < (decM dFin).decs.length ∧ (∀ c ∈ [0x5A#8, 0x6D#8, 0x38#8], isAlphabet c = true) ∧
    (∀ c ∈ [0x3D#8, 0x76#8], inCodeSet c = true) := by decide

theorem witness_DecodeOfEncodeIsTheInput : 0 < State.reset.encs.length ∧ 0 < State.reset.decs.length := by decide

end Sys2Proof.Tests
end

namespace Sys2Proof.Machine

/-! ### Commands to an absent instance (R5, R151, log 7) -/

/-- A transaction on an encoder the state does not have stops by name. -/
theorem encTransaction_of_absent {n : Nat} {s : State} (f : EncState → EncState × Response)
    (h : s.encs.length ≤ n) : encTransaction n f s = .fault (.noSuchEncoder n) := by
  simp [encTransaction, List.getElem?_eq_none h]

/-- A transaction on a decoder the state does not have stops by name. -/
theorem decTransaction_of_absent {n : Nat} {s : State} (f : DecState → DecState × Response)
    (h : s.decs.length ≤ n) : decTransaction n f s = .fault (.noSuchDecoder n) := by
  simp [decTransaction, List.getElem?_eq_none h]

/-- Settles O10: every command is one transaction on its own unit, and a transaction looks its instance up before
it does anything else. -/
theorem missingInstanceStopsTheModel : Obligations.MissingInstanceStopsTheModel := by
  unfold Obligations.MissingInstanceStopsTheModel
  constructor
  · intro i s n hu hn
    rw [exec_of_enc hu, encTransaction_of_absent _ hn]
  · intro i s n hu hn
    rw [exec_of_dec hu, decTransaction_of_absent _ hn]

end Sys2Proof.Machine

namespace Sys2Proof.Machine

/-! ### What one command can do to an encoder (R100 to R107, R146)

The case lists of `Laws/Steps.lean` on all instructions at once, the freeze included, without what neither the
invariants nor the stage depend on: which symbol a queued character encodes, and which fault a command records when. -/

/-- `EncMove n e i e'`: instruction `i` can take encoder instance `n` from `e` to `e'`. -/
inductive EncMove (n : Nat) (e : EncState) : Instr → EncState → Prop where
  /-- NOP, a command ignored while faulted, or an instruction of another unit. -/
  | stays {i : Instr} (hi : i ≠ .encReset n) : EncMove n e i e
  /-- A command that records a fault code. -/
  | raises {i : Instr} (hi : i ≠ .encReset n) (code : BitVec 3) (hcode : code ∈ [1#3, 2#3, 3#3, 5#3]) :
    EncMove n e i { e with fault := code }
  /-- RESET. -/
  | resets : EncMove n e (.encReset n) EncState.reset
  /-- INGEST in phase 0 or 1. -/
  | ingestsOne (b : Byte) (v : Sym) (p : BitVec 2) (hs : e.stage = 0#2) (hq : e.qlen = 0#2) (hp : p.toNat ≤ 2) :
    EncMove n e (.encIngest n b) { e with phase := p, pending := b, qlen := 1#2, q0 := lutEnc v }
  /-- INGEST in phase 2. -/
  | ingestsTwo (b : Byte) (v w : Sym) (hs : e.stage = 0#2) (hq : e.qlen = 0#2) :
    EncMove n e (.encIngest n b)
      { e with phase := 0#2, pending := b, qlen := 2#2, q0 := lutEnc v, q1 := lutEnc w }
  /-- GETC. -/
  | dequeues (hq : e.qlen ≠ 0#2) : EncMove n e (.encGetc n) (deq e)
  /-- FINISH in phase 0. -/
  | finishes (hs : e.stage = 0#2) (hq : e.qlen = 0#2) :
    EncMove n e (.encFinish n) { e with pending := 0#8, stage := 1#2 }
  /-- FINISH in phase 1 or 2. -/
  | flushes (v : Sym) (hs : e.stage = 0#2) (hq : e.qlen = 0#2) :
    EncMove n e (.encFinish n) { e with pending := 0#8, stage := 1#2, qlen := 1#2, q0 := lutEnc v }
  /-- PAD in phase 0. -/
  | padsNone (hs : e.stage = 1#2) (hq : e.qlen = 0#2) : EncMove n e (.encPad n) { e with phase := 0#2, stage := 2#2 }
  /-- PAD in phase 2. -/
  | padsOne (hs : e.stage = 1#2) (hq : e.qlen = 0#2) :
    EncMove n e (.encPad n) { e with phase := 0#2, stage := 2#2, qlen := 1#2, q0 := padChar }
  /-- PAD in phase 1. -/
  | padsTwo (hs : e.stage = 1#2) (hq : e.qlen = 0#2) :
    EncMove n e (.encPad n) { e with phase := 0#2, stage := 2#2, qlen := 2#2, q0 := padChar, q1 := padChar }

theorem encIngestStep_move (n : Nat) (b : Byte) (e : EncState) :
    EncMove n e (.encIngest n b) (encIngestStep b e).1 := by
  rcases encIngestStep_cases b e with ⟨-, h⟩ | ⟨-, -, h⟩ | ⟨hs, hq, -, h⟩ | ⟨hs, hq, -, h⟩ | ⟨hs, hq, -, h⟩ |
    ⟨-, -, -, h⟩ <;> rw [h]
  · exact .raises (by simp) 2#3 (by decide)
  · exact .raises (by simp) 1#3 (by decide)
  · exact .ingestsOne b _ 1#2 hs hq (by decide)
  · exact .ingestsOne b _ 2#2 hs hq (by decide)
  · exact .ingestsTwo b _ _ hs hq
  · exact .raises (by simp) 5#3 (by decide)

theorem encGetcStep_move (n : Nat) (e : EncState) : EncMove n e (.encGetc n) (encGetcStep e).1 := by
  rcases encGetcStep_cases e with ⟨-, h⟩ | ⟨hq, h⟩ <;> rw [h]
  · exact .raises (by simp) 3#3 (by decide)
  · exact .dequeues hq

theorem encFinishStep_move (n : Nat) (e : EncState) : EncMove n e (.encFinish n) (encFinishStep e).1 := by
  rcases encFinishStep_cases e with ⟨-, h⟩ | ⟨-, -, h⟩ | ⟨hs, hq, -, h⟩ | ⟨hs, hq, -, h⟩ | ⟨hs, hq, -, h⟩ |
    ⟨-, -, -, h⟩ <;> rw [h]
  · exact .raises (by simp) 2#3 (by decide)
  · exact .raises (by simp) 1#3 (by decide)
  · exact .finishes hs hq
  · exact .flushes _ hs hq
  · exact .flushes _ hs hq
  · exact .raises (by simp) 5#3 (by decide)

theorem encPadStep_move (n : Nat) (e : EncState) : EncMove n e (.encPad n) (encPadStep e).1 := by
  rcases encPadStep_cases e with ⟨-, h⟩ | ⟨-, -, h⟩ | ⟨hs, hq, -, h⟩ | ⟨hs, hq, -, h⟩ | ⟨hs, hq, -, h⟩ |
    ⟨-, -, -, h⟩ <;> rw [h]
  · exact .raises (by simp) 2#3 (by decide)
  · exact .raises (by simp) 1#3 (by decide)
  · exact .padsNone hs hq
  · exact .padsTwo hs hq
  · exact .padsOne hs hq
  · exact .raises (by simp) 5#3 (by decide)

/-- The freeze adds no move to those of the command. -/
theorem unlessFaultedEnc_move {n : Nat} {e : EncState} {i : Instr} {f : EncState → EncState × Response}
    (hi : i ≠ .encReset n) (h : EncMove n e i (f e).1) : EncMove n e i (unlessFaultedEnc f e).1 := by
  by_cases hf : e.fault = 0#3
  · rwa [unlessFaultedEnc_of_no_fault f e hf]
  · rw [unlessFaultedEnc_of_fault f e hf]
    exact .stays hi

/-- Every instruction of encoder `n`'s port makes one of the moves. -/
theorem encEffect_move {i : Instr} {n : Nat} (hu : unitOf i = .enc n) (e : EncState) :
    EncMove n e i (encEffect i e).1 := by
  cases i <;> simp only [unitOf, UnitId.enc.injEq, reduceCtorEq] at hu <;> subst hu
  case encNop m => exact unlessFaultedEnc_move (by simp) (.stays (by simp))
  case encReset m => exact .resets
  case encIngest m b => exact unlessFaultedEnc_move (by simp) (encIngestStep_move m b e)
  case encGetc m => exact unlessFaultedEnc_move (by simp) (encGetcStep_move m e)
  case encFinish m => exact unlessFaultedEnc_move (by simp) (encFinishStep_move m e)
  case encPad m => exact unlessFaultedEnc_move (by simp) (encPadStep_move m e)
  case encIllegal m w => exact unlessFaultedEnc_move (by simp) (.raises (by simp) 5#3 (by decide))

/-- Every instruction that completes makes one of the moves on every encoder. -/
theorem exec_encMove {i : Instr} {s t : State} {n : Nat} {x y : EncInstance} (h : exec i s = .next t)
    (hx : s.encs[n]? = some x) (hy : t.encs[n]? = some y) : EncMove n x.reg i y.reg := by
  rcases exec_enc_after h hx hy with ⟨hu, rfl⟩ | ⟨hu, rfl⟩
  · exact encEffect_move hu x.reg
  · refine .stays ?_
    rintro rfl
    exact hu rfl

/-! ### What one command can do to a decoder (R120 to R126, R146)

As for the encoder, without the values of a completed byte and of the buffered symbol, which nothing below depends on. -/

/-- `i` is decoder `n`'s DEC.INGEST of `=`, and the instance accepts it (R30, R123). -/
def AcceptsPad (n : Nat) (d : DecState) (i : Instr) : Prop :=
  i = .decIngest n 0x3D ∧ d.fault = 0 ∧ d.stage = 0 ∧ d.slotValid = false

theorem isAlphabet_padChar : isAlphabet padChar = false := by decide

theorem inCodeSet_padChar : inCodeSet padChar = true := by decide

theorem acceptsPad_decIngest {n : Nat} {c : Byte} {d : DecState} :
    AcceptsPad n d (.decIngest n c) ↔ c = padChar ∧ d.fault = 0#3 ∧ d.stage = 0#1 ∧ d.slotValid = false := by
  simp [AcceptsPad, padChar]

/-- `DecMove n d i d'`: instruction `i` can take decoder instance `n` from `d` to `d'`. -/
inductive DecMove (n : Nat) (d : DecState) : Instr → DecState → Prop where
  /-- NOP, a command ignored while faulted, or an instruction of another unit. -/
  | stays {i : Instr} (hi : i ≠ .decReset n) (hpad : ¬ AcceptsPad n d i) : DecMove n d i d
  /-- A command that records a fault code. -/
  | raises {i : Instr} (hi : i ≠ .decReset n) (hpad : ¬ AcceptsPad n d i) (code : BitVec 3) (hcode : code.toNat ≤ 5) :
    DecMove n d i { d with fault := code }
  /-- RESET. -/
  | resets : DecMove n d (.decReset n) DecState.reset
  /-- INGEST of `=`. -/
  | ingestsPad {i : Instr} (hpad : AcceptsPad n d i) :
    DecMove n d i { d with phase := d.phase + 1#2, paddingSeen := true }
  /-- INGEST of an alphabet character after `=`. -/
  | skips (c : Byte) (hc : c ≠ padChar) (hs : d.stage = 0#1) (hp : d.paddingSeen = true) :
    DecMove n d (.decIngest n c) { d with phase := d.phase + 1#2 }
  /-- INGEST of an alphabet character in phase 0. -/
  | buffers (c : Byte) (hc : c ≠ padChar) (hs : d.stage = 0#1) (hp : d.paddingSeen = false) (v : Sym) :
    DecMove n d (.decIngest n c) { d with phase := 1#2, pendingBits := v }
  /-- INGEST of an alphabet character in phases 1 to 3: only before `=`. -/
  | completes (c : Byte) (hc : c ≠ padChar) (hs : d.stage = 0#1) (hp : d.paddingSeen = false) (p : BitVec 2) (v : Sym)
    (b : Byte) :
    DecMove n d (.decIngest n c) { d with phase := p, pendingBits := v, slotValid := true, slot := b }
  /-- GETC. -/
  | drains : DecMove n d (.decGetc n) (emptySlot d)
  /-- FINISH. -/
  | finishes (hs : d.stage = 0#1) :
    DecMove n d (.decFinish n) { d with phase := 0#2, pendingBits := 0#6, stage := 1#1 }

theorem not_acceptsPad_of_fault {n : Nat} {d : DecState} {i : Instr} (hf : d.fault ≠ 0#3) : ¬ AcceptsPad n d i :=
  fun ⟨_, h, _⟩ => hf h

theorem not_acceptsPad_of_ne_padChar {n : Nat} {d : DecState} {c : Byte} (hc : c ≠ padChar) :
    ¬ AcceptsPad n d (.decIngest n c) :=
  fun h => hc (acceptsPad_decIngest.1 h).1

theorem ne_padChar_of_isAlphabet {c : Byte} (h : isAlphabet c = true) : c ≠ padChar := by
  rintro rfl
  simp [isAlphabet_padChar] at h

theorem decIngestStep_move (n : Nat) (c : Byte) {d : DecState} (hf : d.fault = 0#3) :
    DecMove n d (.decIngest n c) (decIngestStep c d).1 := by
  rcases decIngestStep_cases c d with ⟨hs, h⟩ | ⟨-, hv, h⟩ | ⟨-, -, hc, h⟩ | ⟨hs, hv, hc, h⟩ | ⟨hs, -, hc, hp, h⟩ |
    ⟨hs, -, hc, hp, -, h⟩ | ⟨hs, -, hc, hp, -, h⟩ | ⟨hs, -, hc, hp, -, h⟩ | ⟨hs, -, hc, hp, -, h⟩ <;> rw [h]
  · exact .raises (by simp) (fun ha => hs (acceptsPad_decIngest.1 ha).2.2.1) 2#3 (by decide)
  · exact .raises (by simp) (by simp [acceptsPad_decIngest, hv]) 1#3 (by decide)
  · refine .raises (by simp) (not_acceptsPad_of_ne_padChar ?_) 4#3 (by decide)
    rintro rfl
    simp [inCodeSet_padChar] at hc
  · exact .ingestsPad (acceptsPad_decIngest.2 ⟨hc, hf, hs, hv⟩)
  · exact .skips c (ne_padChar_of_isAlphabet hc) hs hp
  · exact .buffers c (ne_padChar_of_isAlphabet hc) hs hp _
  · exact .completes c (ne_padChar_of_isAlphabet hc) hs hp _ _ _
  · exact .completes c (ne_padChar_of_isAlphabet hc) hs hp _ _ _
  · exact .completes c (ne_padChar_of_isAlphabet hc) hs hp _ _ _

theorem decGetcStep_move (n : Nat) (d : DecState) : DecMove n d (.decGetc n) (decGetcStep d).1 := by
  rcases decGetcStep_cases d with ⟨-, h⟩ | ⟨-, h⟩ <;> rw [h]
  · exact .raises (by simp) (by simp [AcceptsPad]) 3#3 (by decide)
  · exact .drains

theorem decFinishStep_move (n : Nat) (d : DecState) : DecMove n d (.decFinish n) (decFinishStep d).1 := by
  rcases decFinishStep_cases d with ⟨-, h⟩ | ⟨hs, h⟩ <;> rw [h]
  · exact .raises (by simp) (by simp [AcceptsPad]) 2#3 (by decide)
  · exact .finishes hs

/-- The freeze adds no move to those of the command. -/
theorem unlessFaultedDec_move {n : Nat} {d : DecState} {i : Instr} {f : DecState → DecState × Response}
    (hi : i ≠ .decReset n) (h : d.fault = 0#3 → DecMove n d i (f d).1) : DecMove n d i (unlessFaultedDec f d).1 := by
  by_cases hf : d.fault = 0#3
  · rw [unlessFaultedDec_of_no_fault f d hf]
    exact h hf
  · rw [unlessFaultedDec_of_fault f d hf]
    exact .stays hi (not_acceptsPad_of_fault hf)

/-- Every instruction of decoder `n`'s port makes one of the moves. -/
theorem decEffect_move {i : Instr} {n : Nat} (hu : unitOf i = .dec n) (d : DecState) :
    DecMove n d i (decEffect i d).1 := by
  cases i <;> simp only [unitOf, UnitId.dec.injEq, reduceCtorEq] at hu <;> subst hu
  case decNop m => exact unlessFaultedDec_move (by simp) fun _ => .stays (by simp) (by simp [AcceptsPad])
  case decReset m => exact .resets
  case decIngest m c => exact unlessFaultedDec_move (by simp) (decIngestStep_move m c)
  case decGetc m => exact unlessFaultedDec_move (by simp) fun _ => decGetcStep_move m d
  case decFinish m => exact unlessFaultedDec_move (by simp) fun _ => decFinishStep_move m d
  case decIllegal101 m w =>
    exact unlessFaultedDec_move (by simp) fun _ => .raises (by simp) (by simp [AcceptsPad]) 5#3 (by decide)
  case decIllegal11x m w =>
    exact unlessFaultedDec_move (by simp) fun _ => .raises (by simp) (by simp [AcceptsPad]) 5#3 (by decide)

/-- Every instruction that completes makes one of the moves on every decoder. -/
theorem exec_decMove {i : Instr} {s t : State} {n : Nat} {x y : DecInstance} (h : exec i s = .next t)
    (hx : s.decs[n]? = some x) (hy : t.decs[n]? = some y) : DecMove n x.reg i y.reg := by
  rcases exec_dec_after h hx hy with ⟨hu, rfl⟩ | ⟨hu, rfl⟩
  · exact decEffect_move hu x.reg
  · refine .stays ?_ ?_
    · rintro rfl
      exact hu rfl
    · rintro ⟨rfl, -⟩
      exact hu rfl

/-! ### From moves to steps -/

/-- No instruction adds or removes an instance (R5). -/
theorem exec_lengths {i : Instr} {s t : State} (h : exec i s = .next t) :
    t.encs.length = s.encs.length ∧ t.decs.length = s.decs.length := by
  rcases exec_next_cases h with ⟨n, x, -, -, rfl⟩ | ⟨n, x, -, -, rfl⟩ | ⟨v, -, rfl⟩ | ⟨c, -, rfl⟩ <;> simp

/-- An encoder present after an instruction was there before it, and made one of the moves. -/
theorem exec_encMove_of_after {i : Instr} {s t : State} {n : Nat} {y : EncInstance} (h : exec i s = .next t)
    (hy : t.encs[n]? = some y) : ∃ x, s.encs[n]? = some x ∧ EncMove n x.reg i y.reg := by
  obtain ⟨hn, -⟩ := List.getElem?_eq_some_iff.1 hy
  rw [(exec_lengths h).1] at hn
  have hx := List.getElem?_eq_getElem hn
  exact ⟨_, hx, exec_encMove h hx hy⟩

/-- A decoder present after an instruction was there before it, and made one of the moves. -/
theorem exec_decMove_of_after {i : Instr} {s t : State} {n : Nat} {y : DecInstance} (h : exec i s = .next t)
    (hy : t.decs[n]? = some y) : ∃ x, s.decs[n]? = some x ∧ DecMove n x.reg i y.reg := by
  obtain ⟨hn, -⟩ := List.getElem?_eq_some_iff.1 hy
  rw [(exec_lengths h).2] at hn
  have hx := List.getElem?_eq_getElem hn
  exact ⟨_, hx, exec_decMove h hx hy⟩

/-- All that a step can be: one executed instruction with the sample taken, or an idle edge. -/
theorem step_next_cases {s t : State} (h : step s = .next t) :
    (∃ i rest, exec i { s with inputs := rest } = .next t) ∨ t = idleEdge s := by
  rcases hin : s.inputs with _ | ⟨p, rest⟩
  · rw [step_of_no_input hin] at h
    cases h
    exact .inr rfl
  · rw [step_of_input hin] at h
    exact .inl ⟨_, rest, h⟩

/-- What every move keeps of one encoder, every step keeps of all of them. -/
theorem step_keeps_encs {P : EncState → Prop} (hP : ∀ {n e i e'}, EncMove n e i e' → P e → P e') {s t : State}
    (hs : ∀ x ∈ s.encs, P x.reg) (h : step s = .next t) : ∀ y ∈ t.encs, P y.reg := by
  intro y hy
  rcases step_next_cases h with ⟨i, rest, he⟩ | rfl
  · obtain ⟨n, hn⟩ := List.mem_iff_getElem?.1 hy
    obtain ⟨x, hx, hmove⟩ := exec_encMove_of_after he hn
    exact hP hmove (hs x (List.mem_of_getElem? hx))
  · obtain ⟨x, hx, rfl⟩ := List.mem_map.1 hy
    exact hs x hx

/-- What every move keeps of one decoder, every step keeps of all of them. -/
theorem step_keeps_decs {P : DecState → Prop} (hP : ∀ {n d i d'}, DecMove n d i d' → P d → P d') {s t : State}
    (hs : ∀ x ∈ s.decs, P x.reg) (h : step s = .next t) : ∀ y ∈ t.decs, P y.reg := by
  intro y hy
  rcases step_next_cases h with ⟨i, rest, he⟩ | rfl
  · obtain ⟨n, hn⟩ := List.mem_iff_getElem?.1 hy
    obtain ⟨x, hx, hmove⟩ := exec_decMove_of_after he hn
    exact hP hmove (hs x (List.mem_of_getElem? hx))
  · obtain ⟨x, hx, rfl⟩ := List.mem_map.1 hy
    exact hs x hx

/-! ### The encoder's invariants (R26, R110) -/

@[simp] theorem inCodeSet_lutEnc (v : Sym) : inCodeSet (lutEnc v) = true := by
  revert v
  decide

@[simp] theorem lutEnc_ne_padChar (v : Sym) : lutEnc v ≠ padChar := by
  revert v
  decide

theorem encInv_reset : EncInv EncState.reset := by decide

theorem encQueueInv_reset : EncQueueInv EncState.reset := by decide

/-- A queue within capacity that is not empty holds one or two characters (R23). -/
theorem qlen_eq_one_or_two {q : BitVec 2} (h : q.toNat ≤ 2) (h0 : q ≠ 0#2) : q = 1#2 ∨ q = 2#2 := by
  revert q
  decide

/-- GETC keeps R26: what moves up from a queue of two is a character, from a queue of one the zero. -/
theorem encInv_deq {e : EncState} (h : EncInv e) (hq : e.qlen ≠ 0#2) : EncInv (deq e) := by
  obtain ⟨⟨hphase, hqlen, hstage, hfault⟩, ⟨-, hone⟩, ⟨-, hchar1⟩, hpending, hpadded, -, hpad1⟩ := h
  rcases qlen_eq_one_or_two hqlen hq with hq | hq
  · exact ⟨⟨hphase, by simp [hq], hstage, hfault⟩, by simp [hq, hone hq], by simp [hq], hpending, hpadded, by simp [hq]⟩
  · have hq' : 2 ≤ e.qlen.toNat := by simp [hq]
    exact ⟨⟨hphase, by simp [hq], hstage, hfault⟩, by simp [hq], by simp [hq, hchar1 hq'], hpending, hpadded,
      by simpa [hq] using hpad1⟩

/-- A move that fills the queue found it empty, so the places it leaves alone are zero; a `=` it writes comes with
stage PADDED, and `pending` is zero from FINISHED on. -/
theorem EncMove.encInv {n : Nat} {e e' : EncState} {i : Instr} (hm : EncMove n e i e') (h : EncInv e) : EncInv e' := by
  have ⟨⟨hphase, hqlen, hstage, hfault⟩, ⟨hempty, hone⟩, hchars, hpending, hpadded, hpads⟩ := h
  cases hm with
  | stays hi => exact h
  | raises hi code hcode =>
    exact ⟨⟨hphase, hqlen, hstage, .tail _ hcode⟩, ⟨hempty, hone⟩, hchars, hpending, hpadded, hpads⟩
  | resets => exact encInv_reset
  | ingestsOne b v p hs hq hp => simp [EncInv, hp, hfault, hs, (hempty hq).2]
  | ingestsTwo b v w hs hq => simp [EncInv, hfault, hs]
  | dequeues hq => exact encInv_deq h hq
  | finishes hs hq => simp [EncInv, hphase, hfault, hq, hempty hq]
  | flushes v hs hq => simp [EncInv, hphase, hfault, (hempty hq).2]
  | padsNone hs hq => simp [EncInv, hfault, hq, hempty hq, hpending, hs]
  | padsOne hs hq => simp [EncInv, hfault, (hempty hq).2, hpending, hs, inCodeSet_padChar]
  | padsTwo hs hq => simp [EncInv, hfault, hpending, hs, inCodeSet_padChar]

/-- Under R26 the queue holds two at most, so GETC leaves one at most. -/
theorem EncMove.encQueueInv {n : Nat} {e e' : EncState} {i : Instr} (hm : EncMove n e i e') (hinv : EncInv e)
    (h : EncQueueInv e) : EncQueueInv e' := by
  cases hm with
  | stays hi => exact h
  | raises hi code hcode => exact h
  | resets => exact encQueueInv_reset
  | ingestsOne b v p hs hq hp => simp [EncQueueInv, hs]
  | ingestsTwo b v w hs hq => simp [EncQueueInv, hs]
  | dequeues hq =>
    obtain ⟨⟨-, hqlen, -, -⟩, -⟩ := hinv
    obtain ⟨-, hpadded⟩ := h
    rcases qlen_eq_one_or_two hqlen hq with hq | hq
    · simp [EncQueueInv, hq]
    · simpa [EncQueueInv, hq] using fun hs => (hpadded hs).2 (by simp [hq])
  | finishes hs hq => simp [EncQueueInv, hq]
  | flushes v hs hq => simp [EncQueueInv]
  | padsNone hs hq => simp [EncQueueInv, hq]
  | padsOne hs hq => simp [EncQueueInv]
  | padsTwo hs hq => simp [EncQueueInv]

/-- Settles O42: every move keeps R26, so every step does. -/
theorem everyStepKeepsTheEncoderInvariants : Obligations.EveryStepKeepsTheEncoderInvariants := by
  unfold Obligations.EveryStepKeepsTheEncoderInvariants
  exact fun _ _ => step_keeps_encs EncMove.encInv

/-- Settles O43: every move keeps R26 and, under R26, the bounds on the queue by stage. -/
theorem everyStepKeepsTheQueueByStage : Obligations.EveryStepKeepsTheQueueByStage := by
  unfold Obligations.EveryStepKeepsTheQueueByStage
  exact fun _ _ => step_keeps_encs (P := fun e => EncInv e ∧ EncQueueInv e)
    fun hm ⟨hinv, hqueue⟩ => ⟨hm.encInv hinv, hm.encQueueInv hinv hqueue⟩

/-! ### The decoder's invariants (R34) -/

theorem decInv_reset : DecInv DecState.reset := by decide

theorem DecMove.decInv {n : Nat} {d d' : DecState} {i : Instr} (hm : DecMove n d i d') (h : DecInv d) : DecInv d' := by
  have ⟨hfault, hslot, hfinished⟩ := h
  cases hm with
  | stays hi hpad => exact h
  | raises hi hpad code hcode => exact ⟨hcode, hslot, hfinished⟩
  | resets => exact decInv_reset
  | ingestsPad hpad =>
    obtain ⟨-, -, hs, -⟩ := hpad
    exact ⟨hfault, hslot, by simp [hs]⟩
  | skips c hc hs hp => exact ⟨hfault, hslot, by simp [hs]⟩
  | buffers c hc hs hp v => exact ⟨hfault, hslot, by simp [hs]⟩
  | completes c hc hs hp p v b => exact ⟨hfault, by simp, by simp [hs]⟩
  | drains => exact ⟨hfault, by simp, hfinished⟩
  | finishes hs => exact ⟨hfault, hslot, by simp⟩

/-- Settles O44: every move keeps R34 (a), (b), (d), so every step does. -/
theorem everyStepKeepsTheDecoderInvariants : Obligations.EveryStepKeepsTheDecoderInvariants := by
  unfold Obligations.EveryStepKeepsTheDecoderInvariants
  exact fun _ _ => step_keeps_decs DecMove.decInv

/-! ### The stage (R24, R32, R114) -/

theorem EncMove.stage {n : Nat} {e e' : EncState} {i : Instr} (hm : EncMove n e i e') :
    e'.stage = e.stage ∨ (i = .encFinish n ∧ e.stage = 0 ∧ e'.stage = 1) ∨
      (i = .encPad n ∧ e.stage = 1 ∧ e'.stage = 2) ∨ (i = .encReset n ∧ e'.stage = 0) := by
  cases hm with
  | stays hi => exact .inl rfl
  | raises hi code hcode => exact .inl rfl
  | resets => exact .inr (.inr (.inr ⟨rfl, rfl⟩))
  | ingestsOne b v p hs hq hp => exact .inl rfl
  | ingestsTwo b v w hs hq => exact .inl rfl
  | dequeues hq => exact .inl rfl
  | finishes hs hq => exact .inr (.inl ⟨rfl, hs, rfl⟩)
  | flushes v hs hq => exact .inr (.inl ⟨rfl, hs, rfl⟩)
  | padsNone hs hq => exact .inr (.inr (.inl ⟨rfl, hs, rfl⟩))
  | padsOne hs hq => exact .inr (.inr (.inl ⟨rfl, hs, rfl⟩))
  | padsTwo hs hq => exact .inr (.inr (.inl ⟨rfl, hs, rfl⟩))

theorem DecMove.stage {n : Nat} {d d' : DecState} {i : Instr} (hm : DecMove n d i d') :
    d'.stage = d.stage ∨ (i = .decFinish n ∧ d.stage = 0 ∧ d'.stage = 1) ∨ (i = .decReset n ∧ d'.stage = 0) := by
  cases hm with
  | stays hi hpad => exact .inl rfl
  | raises hi hpad code hcode => exact .inl rfl
  | resets => exact .inr (.inr ⟨rfl, rfl⟩)
  | ingestsPad hpad => exact .inl rfl
  | skips c hc hs hp => exact .inl rfl
  | buffers c hc hs hp v => exact .inl rfl
  | completes c hc hs hp p v b => exact .inl rfl
  | drains => exact .inl rfl
  | finishes hs => exact .inr (.inl ⟨rfl, hs, rfl⟩)

/-- Settles O37: of all moves only those of FINISH, PAD and RESET change the stage. -/
theorem stageMovesOnlyForwardUntilReset : Obligations.StageMovesOnlyForwardUntilReset := by
  unfold Obligations.StageMovesOnlyForwardUntilReset
  constructor
  · intro i s t n x y h hx hy
    exact (exec_encMove h hx hy).stage
  · intro i s t n x y h hx hy
    exact (exec_decMove h hx hy).stage

/-! ### The padding flag (R30, R34 (c)) -/

theorem DecMove.paddingSeen_iff {n : Nat} {d d' : DecState} {i : Instr} (hm : DecMove n d i d') :
    d'.paddingSeen = true ↔ (d.paddingSeen = true ∧ i ≠ .decReset n) ∨ AcceptsPad n d i := by
  cases hm with
  | stays hi hpad => simp [hi, hpad]
  | raises hi hpad code hcode => simp [hi, hpad]
  | resets => simp [DecState.reset, AcceptsPad]
  | ingestsPad hpad => simp [hpad]
  | skips c hc hs hp => simp [not_acceptsPad_of_ne_padChar hc]
  | buffers c hc hs hp v => simp [not_acceptsPad_of_ne_padChar hc]
  | completes c hc hs hp p v b => simp [not_acceptsPad_of_ne_padChar hc]
  | drains => simp [AcceptsPad]
  | finishes hs => simp [AcceptsPad]

/-- Only a completed byte fills the slot, and none is completed after `=`. -/
theorem DecMove.slotValid_of_paddingSeen {n : Nat} {d d' : DecState} {i : Instr} (hm : DecMove n d i d')
    (hp : d.paddingSeen = true) (hv : d'.slotValid = true) : d.slotValid = true := by
  cases hm with
  | stays hi hpad => exact hv
  | raises hi hpad code hcode => exact hv
  | resets => simp [DecState.reset] at hv
  | ingestsPad hpad => exact hv
  | skips c hc hs _ => exact hv
  | buffers c hc hs _ v => exact hv
  | completes c hc hs hunpadded p v b => simp [hp] at hunpadded
  | drains => simp at hv
  | finishes hs => exact hv

/-- Settles O38: `padding_seen` and the slot, move by move. -/
theorem paddingClosesTheStreamUntilReset : Obligations.PaddingClosesTheStreamUntilReset := by
  unfold Obligations.PaddingClosesTheStreamUntilReset
  intro i s t n x y h hx hy
  have hm := exec_decMove h hx hy
  exact ⟨hm.paddingSeen_iff, hm.slotValid_of_paddingSeen⟩

/-! ### Reset (R40, R161) -/

theorem EncMove.eq_reset {n : Nat} {e e' : EncState} (hm : EncMove n e (.encReset n) e') : e' = EncState.reset := by
  cases hm with
  | stays hi => exact absurd rfl hi
  | raises hi code hcode => exact absurd rfl hi
  | resets => rfl

theorem DecMove.eq_reset {n : Nat} {d d' : DecState} (hm : DecMove n d (.decReset n) d') : d' = DecState.reset := by
  cases hm with
  | stays hi hpad => exact absurd rfl hi
  | raises hi hpad code hcode => exact absurd rfl hi
  | resets => rfl
  | ingestsPad hpad => simp [AcceptsPad] at hpad

theorem eq_reset_of_mem_reset_encs {x : EncInstance} (h : x ∈ State.reset.encs) : x = EncInstance.reset :=
  List.eq_of_mem_replicate h

theorem eq_reset_of_mem_reset_decs {x : DecInstance} (h : x ∈ State.reset.decs) : x = DecInstance.reset :=
  List.eq_of_mem_replicate h

/-- Settles O11: every instance of the reset machine is the reset instance, whose fields are zero by definition. -/
theorem resetLeavesEveryFieldZero : Obligations.ResetLeavesEveryFieldZero := by
  unfold Obligations.ResetLeavesEveryFieldZero
  refine ⟨?_, ?_, rfl, rfl⟩
  · intro x hx
    rw [eq_reset_of_mem_reset_encs hx]
    decide
  · intro x hx
    rw [eq_reset_of_mem_reset_decs hx]
    decide

/-- Settles O45: a reset instance, of the reset machine or after a reset step, has the reset state, which meets the
invariants. -/
theorem resetEstablishesTheInvariants : Obligations.ResetEstablishesTheInvariants := by
  unfold Obligations.ResetEstablishesTheInvariants
  refine ⟨⟨?_, ?_⟩, ?_, ?_⟩
  · intro x hx
    rw [eq_reset_of_mem_reset_encs hx]
    exact ⟨encInv_reset, encQueueInv_reset⟩
  · intro x hx
    rw [eq_reset_of_mem_reset_decs hx]
    exact decInv_reset
  · intro s t n y h hy
    obtain ⟨x, -, hm⟩ := exec_encMove_of_after h hy
    rw [hm.eq_reset]
    exact ⟨encInv_reset, encQueueInv_reset⟩
  · intro s t n y h hy
    obtain ⟨x, -, hm⟩ := exec_decMove_of_after h hy
    rw [hm.eq_reset]
    exact decInv_reset

end Sys2Proof.Machine

namespace Sys2Proof.Machine

/-! ### What each unit holds (R92, R151)

An instruction reads and writes its own unit only, and the state is what its units hold together with the samples not
yet taken. That is all it takes for commands of different units to commute. -/

/-- What one unit of the machine holds: an instance if the state has it, or the level of an input pin. -/
inductive UnitContents where
  | enc (x : Option EncInstance)
  | dec (y : Option DecInstance)
  | encSym (v : Sym)
  | decChar (c : Byte)

/-- What unit `k` holds in state `s`. -/
def State.contents (s : State) : UnitId → UnitContents
  | .enc n => .enc s.encs[n]?
  | .dec n => .dec s.decs[n]?
  | .encSymPort => .encSym s.mapper.encSym
  | .decCharPort => .decChar s.mapper.decChar

/-- A state is what its units hold and the samples not yet taken. -/
theorem State.eq_of_contents {s t : State} (hc : ∀ k, s.contents k = t.contents k) (hi : s.inputs = t.inputs) :
    s = t := by
  have hencs : s.encs = t.encs := List.ext_getElem? fun n => UnitContents.enc.inj (hc (.enc n))
  have hdecs : s.decs = t.decs := List.ext_getElem? fun n => UnitContents.dec.inj (hc (.dec n))
  have hsym := UnitContents.encSym.inj (hc .encSymPort)
  have hchar := UnitContents.decChar.inj (hc .decCharPort)
  obtain ⟨encs, decs, ⟨encSym, decChar⟩, inputs⟩ := s
  subst hencs hdecs hsym hchar hi
  rfl

theorem contents_setEnc_self {n : Nat} {s : State} {x : EncInstance} (y : EncInstance) (h : s.encs[n]? = some x) :
    (setEnc n y s).contents (.enc n) = .enc (some y) :=
  congrArg UnitContents.enc (setEnc_only y h).1

theorem contents_setDec_self {n : Nat} {s : State} {x : DecInstance} (y : DecInstance) (h : s.decs[n]? = some x) :
    (setDec n y s).contents (.dec n) = .dec (some y) :=
  congrArg UnitContents.dec (setDec_only y h).1

theorem contents_setEnc_of_ne {n : Nat} {k : UnitId} (y : EncInstance) (s : State) (h : k ≠ .enc n) :
    (setEnc n y s).contents k = s.contents k := by
  cases k with
  | enc m => simp [State.contents, List.getElem?_set_ne (fun hnm : n = m => h (hnm ▸ rfl))]
  | dec m => rfl
  | encSymPort => rfl
  | decCharPort => rfl

theorem contents_setDec_of_ne {n : Nat} {k : UnitId} (y : DecInstance) (s : State) (h : k ≠ .dec n) :
    (setDec n y s).contents k = s.contents k := by
  cases k with
  | enc m => rfl
  | dec m => simp [State.contents, List.getElem?_set_ne (fun hnm : n = m => h (hnm ▸ rfl))]
  | encSymPort => rfl
  | decCharPort => rfl

theorem contents_driveEncSym_of_ne {k : UnitId} (v : Sym) (s : State) (h : k ≠ .encSymPort) :
    (driveEncSym v s).contents k = s.contents k := by
  cases k with
  | encSymPort => exact absurd rfl h
  | _ => rfl

theorem contents_driveDecChar_of_ne {k : UnitId} (c : Byte) (s : State) (h : k ≠ .decCharPort) :
    (driveDecChar c s).contents k = s.contents k := by
  cases k with
  | decCharPort => exact absurd rfl h
  | _ => rfl

/-! ### Commands of different units (R60, R151) -/

/-- Executing an instruction takes no sample: taking it is the step's part (R83). -/
theorem exec_inputs {i : Instr} {s t : State} (h : exec i s = .next t) : t.inputs = s.inputs := by
  rcases exec_next_cases h with ⟨n, x, -, -, rfl⟩ | ⟨n, x, -, -, rfl⟩ | ⟨v, -, rfl⟩ | ⟨c, -, rfl⟩ <;> rfl

/-- An instruction writes no unit but its own. -/
theorem exec_contents_of_ne {i : Instr} {s t : State} {k : UnitId} (h : exec i s = .next t) (hk : k ≠ unitOf i) :
    t.contents k = s.contents k := by
  rcases exec_next_cases h with ⟨n, x, hu, -, rfl⟩ | ⟨n, x, hu, -, rfl⟩ | ⟨v, rfl, rfl⟩ | ⟨c, rfl, rfl⟩
  · exact contents_setEnc_of_ne _ s (hu ▸ hk)
  · exact contents_setDec_of_ne _ s (hu ▸ hk)
  · exact contents_driveEncSym_of_ne v s hk
  · exact contents_driveDecChar_of_ne c s hk

/-- An instruction reads no unit but its own: where its unit holds the same, it completes too and leaves the same
there. -/
theorem exec_of_contents_eq {i : Instr} {s s' t : State} (h : exec i s = .next t)
    (hs : s'.contents (unitOf i) = s.contents (unitOf i)) :
    ∃ t', exec i s' = .next t' ∧ t'.contents (unitOf i) = t.contents (unitOf i) := by
  rcases exec_next_cases h with ⟨n, x, hu, hx, rfl⟩ | ⟨n, x, hu, hx, rfl⟩ | ⟨v, rfl, rfl⟩ | ⟨c, rfl, rfl⟩
  · rw [hu] at hs ⊢
    have hx' : s'.encs[n]? = some x := (UnitContents.enc.inj hs).trans hx
    exact ⟨_, by rw [exec_of_enc hu, encTransaction_of_instance _ hx'],
      (contents_setEnc_self _ hx').trans (contents_setEnc_self _ hx).symm⟩
  · rw [hu] at hs ⊢
    have hx' : s'.decs[n]? = some x := (UnitContents.dec.inj hs).trans hx
    exact ⟨_, by rw [exec_of_dec hu, decTransaction_of_instance _ hx'],
      (contents_setDec_self _ hx').trans (contents_setDec_self _ hx).symm⟩
  · exact ⟨driveEncSym v s', rfl, rfl⟩
  · exact ⟨driveDecChar c s', rfl, rfl⟩

/-- Settles O41: each of the two commands finds its own unit as the other left it, which is as it was; so in either
order every unit ends with the same contents. -/
theorem commandsOnDifferentPortsCommute : Obligations.CommandsOnDifferentPortsCommute := by
  unfold Obligations.CommandsOnDifferentPortsCommute
  intro i j s t u hij hi hj
  obtain ⟨v, hv, hvj⟩ := exec_of_contents_eq hj (exec_contents_of_ne hi hij.symm).symm
  obtain ⟨w, hw, hwi⟩ := exec_of_contents_eq hi (exec_contents_of_ne hv hij)
  have hwu : w = u := by
    refine State.eq_of_contents (fun k => ?_) ?_
    · by_cases hki : k = unitOf i
      · rw [hki, hwi, exec_contents_of_ne hj hij]
      · rw [exec_contents_of_ne hw hki]
        by_cases hkj : k = unitOf j
        · rw [hkj, hvj]
        · rw [exec_contents_of_ne hv hkj, exec_contents_of_ne hj hkj, exec_contents_of_ne hi hki]
    · rw [exec_inputs hw, exec_inputs hv, exec_inputs hj, exec_inputs hi]
  exact ⟨v, hv, hwu ▸ hw⟩

end Sys2Proof.Machine

namespace Sys2Proof.Machine

/-! ### ENC_ROM (R51) -/

/-- The closed form and the printed table, compared at the 64 values. -/
theorem encRomPrinted_getElem? (i : Sym) : encRomPrinted[i.toNat]? = some (encRom i) := by
  revert i
  decide

theorem encRom_toNat_of_upper {i : Sym} (h : i.toNat ≤ 25) : (encRom i).toNat = 0x41 + i.toNat := by
  simp only [encRom, if_pos h, BitVec.toNat_ofNat]
  omega

theorem encRom_toNat_of_lower {i : Sym} (h : 26 ≤ i.toNat ∧ i.toNat ≤ 51) :
    (encRom i).toNat = 0x61 + (i.toNat - 26) := by
  simp only [encRom, if_neg (show ¬i.toNat ≤ 25 by omega), if_pos h.2, BitVec.toNat_ofNat]
  omega

theorem encRom_toNat_of_digit {i : Sym} (h : 52 ≤ i.toNat ∧ i.toNat ≤ 61) :
    (encRom i).toNat = 0x30 + (i.toNat - 52) := by
  simp only [encRom, if_neg (show ¬i.toNat ≤ 25 by omega), if_neg (show ¬i.toNat ≤ 51 by omega), if_pos h.2,
    BitVec.toNat_ofNat]
  omega

theorem encRom_of_62 {i : Sym} (h : i.toNat = 62) : encRom i = 0x2D#8 := by
  simp [encRom, h]

theorem encRom_of_63 {i : Sym} (h : i.toNat = 63) : encRom i = 0x5F#8 := by
  simp [encRom, h]

/-- Settles O12: the table value by value, the closed form range by range. -/
theorem encRomIsThePrintedTable : Obligations.EncRomIsThePrintedTable := by
  unfold Obligations.EncRomIsThePrintedTable
  exact ⟨encRomPrinted_getElem?, rfl, fun i =>
    ⟨encRom_toNat_of_upper, encRom_toNat_of_lower, encRom_toNat_of_digit, encRom_of_62, encRom_of_63,
      lutEnc_ne_padChar i⟩⟩

/-! ### DEC_ROM (R52) -/

/-- The closed form and the printed grid, compared at the 256 codes. -/
theorem decRomPrinted_getElem? (c : Byte) : decRomPrinted[c.toNat]? = some (decRom c) := by
  revert c
  decide

theorem decRomPrinted_length : decRomPrinted.length = 256 := by
  simp only [decRomPrinted, List.length_append, List.length_replicate]
  rfl

/-- The entry of an alphabet character is `{0, 1, sym}` with its symbol value. -/
theorem decRom_encRom (i : Sym) : decRom (encRom i) = 0b01#2 ++ i := by
  revert i
  decide

theorem exists_sym_toNat_eq {k : Nat} (h : k < 64) : ∃ i : Sym, i.toNat = k :=
  ⟨BitVec.ofNatLT k h, BitVec.toNat_ofNatLT k h⟩

/-- A code is in ENC_ROM, is `=`, or has the zero entry: on each range of DEC_ROM's closed form the entry holds the
symbol that ENC_ROM's closed form takes back to the code. -/
theorem decRom_classes (c : Byte) : (∃ i, encRom i = c) ∨ c = padChar ∨ decRom c = 0x00#8 := by
  simp only [decRom]
  split
  next h =>
    obtain ⟨i, hi⟩ := exists_sym_toNat_eq (show c.toNat - 0x41 < 64 by omega)
    exact .inl ⟨i, BitVec.eq_of_toNat_eq ((encRom_toNat_of_upper (by omega)).trans (by omega))⟩
  split
  next h =>
    obtain ⟨i, hi⟩ := exists_sym_toNat_eq (show c.toNat - 0x61 + 26 < 64 by omega)
    exact .inl ⟨i, BitVec.eq_of_toNat_eq ((encRom_toNat_of_lower (by omega)).trans (by omega))⟩
  split
  next h =>
    obtain ⟨i, hi⟩ := exists_sym_toNat_eq (show c.toNat - 0x30 + 52 < 64 by omega)
    exact .inl ⟨i, BitVec.eq_of_toNat_eq ((encRom_toNat_of_digit (by omega)).trans (by omega))⟩
  split
  next h => exact .inl ⟨62#6, (encRom_of_62 rfl).trans (BitVec.eq_of_toNat_eq h.symm)⟩
  split
  next h => exact .inl ⟨63#6, (encRom_of_63 rfl).trans (BitVec.eq_of_toNat_eq h.symm)⟩
  split
  next h => exact .inr (.inl (BitVec.eq_of_toNat_eq h))
  next => exact .inr (.inr rfl)

/-- Settles O13: the grid code by code, and the three classes of codes. -/
theorem decRomIsThePrintedGrid : Obligations.DecRomIsThePrintedGrid := by
  unfold Obligations.DecRomIsThePrintedGrid
  refine ⟨decRomPrinted_getElem?, decRomPrinted_length, decRom_encRom, rfl, fun c halpha hpad => ?_⟩
  rcases decRom_classes c with ⟨i, hi⟩ | hc | hzero
  · exact absurd hi (halpha i)
  · exact absurd hc hpad
  · exact hzero

end Sys2Proof.Machine

namespace Sys2Proof

/-! ### The opcode maps (R75, R76) -/

/-- The cases of the encoder's opcode map. -/
theorem decodeEncWord_cases (n : Nat) (w : CmdWord) :
    (opField w = 0#3 ∧ decodeEncWord n w = .encNop n) ∨
    (opField w = 1#3 ∧ decodeEncWord n w = .encReset n) ∨
    (opField w = 2#3 ∧ decodeEncWord n w = .encIngest n (opdField w)) ∨
    (opField w = 3#3 ∧ decodeEncWord n w = .encGetc n) ∨
    (opField w = 4#3 ∧ decodeEncWord n w = .encFinish n) ∨
    (opField w = 5#3 ∧ decodeEncWord n w = .encPad n) ∨
    ((opField w = 6#3 ∨ opField w = 7#3) ∧ decodeEncWord n w = .encIllegal n w) := by
  rcases opField_cases w with h | h | h | h | h | h | h | h <;> simp [decodeEncWord, h]

/-- The cases of the decoder's opcode map. -/
theorem decodeDecWord_cases (n : Nat) (w : CmdWord) :
    (opField w = 0#3 ∧ decodeDecWord n w = .decNop n) ∨
    (opField w = 1#3 ∧ decodeDecWord n w = .decReset n) ∨
    (opField w = 2#3 ∧ decodeDecWord n w = .decIngest n (opdField w)) ∨
    (opField w = 3#3 ∧ decodeDecWord n w = .decGetc n) ∨
    (opField w = 4#3 ∧ decodeDecWord n w = .decFinish n) ∨
    (opField w = 5#3 ∧ decodeDecWord n w = .decIllegal101 n w) ∨
    ((opField w = 6#3 ∨ opField w = 7#3) ∧ decodeDecWord n w = .decIllegal11x n w) := by
  rcases opField_cases w with h | h | h | h | h | h | h | h <;> simp [decodeDecWord, h]

/-! ### Decoding what the encoder writes (R73 to R77) -/

/-- A frame with port number 2 is read as an index on `enc_sym`. -/
theorem decodeFrame_encSym (i : Sym) : decodeFrame (4096 + i.toNat) = .ok (.encSym i) := by
  have hi := i.isLt
  have hvalue : (4096 + i.toNat) % 2048 = i.toNat := by omega
  have hport : (4096 + i.toNat) / 2048 % 4 = 2 := by omega
  have hnumber : (4096 + i.toNat) / 8192 = 0 := by omega
  simp [decodeFrame, hvalue, hport, hnumber, hi]

/-- A frame with port number 3 is read as an index on `dec_char`. -/
theorem decodeFrame_decChar (c : Byte) : decodeFrame (6144 + c.toNat) = .ok (.decChar c) := by
  have hc := c.isLt
  have hvalue : (6144 + c.toNat) % 2048 = c.toNat := by omega
  have hport : (6144 + c.toNat) / 2048 % 4 = 3 := by omega
  have hnumber : (6144 + c.toNat) / 8192 = 0 := by omega
  simp [decodeFrame, hvalue, hport, hnumber, hc]

/-- The frame of a canonical port value, whose `rst` is low, is read as that value. -/
theorem decodeFrame_encode (i : Instr) : decodeFrame (encode i) = .ok (encodeInput i) := by
  cases i
  case lutEnc v => exact decodeFrame_encSym v
  case lutDec c => exact decodeFrame_decChar c
  case encNop | encReset | encIngest | encGetc | encFinish | encPad | encIllegal => exact decodeFrame_encPort _ _
  case decNop | decReset | decIngest | decGetc | decFinish | decIllegal101 | decIllegal11x =>
    exact decodeFrame_decPort _ _

theorem decodeEncWord_of_reserved11x (n : Nat) {w : CmdWord} (h : reserved11x w = true) :
    decodeEncWord n w = .encIllegal n w := by
  rcases (reserved11x_iff w).1 h with h | h <;> simp [decodeEncWord, h]

theorem decodeDecWord_of_reserved11x (n : Nat) {w : CmdWord} (h : reserved11x w = true) :
    decodeDecWord n w = .decIllegal11x n w := by
  rcases (reserved11x_iff w).1 h with h | h <;> simp [decodeDecWord, h]

theorem decodeDecWord_of_reserved101 (n : Nat) {w : CmdWord} (h : reserved101 w = true) :
    decodeDecWord n w = .decIllegal101 n w := by
  simp [decodeDecWord, (reserved101_iff w).1 h]

/-- A command's canonical word holds its opcode and operand; a reserved word decodes to itself. -/
theorem decodeInput_encodeInput {i : Instr} (h : WellFormed i = true) : decodeInput (encodeInput i) = i := by
  cases i
  case encIllegal n w => exact decodeEncWord_of_reserved11x n h
  case decIllegal101 n w => exact decodeDecWord_of_reserved101 n h
  case decIllegal11x n w => exact decodeDecWord_of_reserved11x n h
  case lutEnc | lutDec => rfl
  case encNop | encReset | encIngest | encGetc | encFinish | encPad =>
    simp [encodeInput, decodeInput, decodeEncWord]
  case decNop | decReset | decIngest | decGetc | decFinish =>
    simp [encodeInput, decodeInput, decodeDecWord]

/-- Settles O1: the frame gives the canonical port value back, and the port value gives the instruction back. -/
theorem decodeOfEncodeIsInstruction : Obligations.DecodeOfEncodeIsInstruction := by
  unfold Obligations.DecodeOfEncodeIsInstruction
  intro i hwf
  exact ⟨by simp [decode, decodeFrame_encode, decodeInput_encodeInput hwf], decodeInput_encodeInput hwf⟩

/-! ### The opcode table (R75) -/

/-- No command row looks at the operand. -/
theorem selects_eq_selects_opcode {r : OpcodeRow} (hr : r ∈ commandRows) (port : PortKind) (w : CmdWord) :
    r.selects port w = r.selects port (cmdWord (opField w) 0x00#8) := by
  have hmask : r.mask &&& 0x700#11 = r.mask := by
    revert r
    decide
  have hand : w &&& r.mask = cmdWord (opField w) 0x00#8 &&& r.mask := by
    calc w &&& r.mask = (cmdWord (opField w) (opdField w) &&& 0x700#11) &&& r.mask := by
          rw [cmdWord_fields, BitVec.and_assoc, BitVec.and_comm 0x700#11, hmask]
      _ = cmdWord (opField w) 0x00#8 &&& r.mask := by rw [Laws.TableRow.and_opcodeMask]
  rw [OpcodeRow.selects, OpcodeRow.selects, hand]

theorem filter_selects_eq_filter_selects_opcode (port : PortKind) (w : CmdWord) :
    commandRows.filter (fun r => r.selects port w) =
      commandRows.filter (fun r => r.selects port (cmdWord (opField w) 0x00#8)) :=
  List.filter_congr fun _ hr => selects_eq_selects_opcode hr port w

/-- Settles O3: the rows are selected by the opcode alone, so eight words per port show which they are. -/
theorem everyWordSelectsItsOneRow : Obligations.EveryWordSelectsItsOneRow := by
  unfold Obligations.EveryWordSelectsItsOneRow
  intro n w
  rw [filter_selects_eq_filter_selects_opcode .encCw, filter_selects_eq_filter_selects_opcode .decCw]
  constructor
  · rcases decodeEncWord_cases n w with ⟨hop, hdec⟩ | ⟨hop, hdec⟩ | ⟨hop, hdec⟩ | ⟨hop, hdec⟩ | ⟨hop, hdec⟩ |
      ⟨hop, hdec⟩ | ⟨hop | hop, hdec⟩ <;> rw [hop, hdec] <;> rfl
  · rcases decodeDecWord_cases n w with ⟨hop, hdec⟩ | ⟨hop, hdec⟩ | ⟨hop, hdec⟩ | ⟨hop, hdec⟩ | ⟨hop, hdec⟩ |
      ⟨hop, hdec⟩ | ⟨hop | hop, hdec⟩ <;> rw [hop, hdec] <;> rfl

/-- Settles O4: the opcode map evaluated at the words. -/
theorem writtenWordsDecode : Obligations.WrittenWordsDecode := by
  unfold Obligations.WrittenWordsDecode
  decide

end Sys2Proof

namespace Sys2Proof.Machine

/-! ### Canonical words (R74, R78) -/

theorem reservedOn_enc_iff (w : CmdWord) : reservedOn .enc w = true ↔ opField w = 6#3 ∨ opField w = 7#3 :=
  reserved11x_iff w

theorem reservedOn_dec_iff (w : CmdWord) :
    reservedOn .dec w = true ↔ opField w = 5#3 ∨ opField w = 6#3 ∨ opField w = 7#3 := by
  simp [reservedOn, reserved101_iff, reserved11x_iff]

theorem canonicalWord_of_ingest (p : CmdPort) {w : CmdWord} (h : opField w = 2#3) : canonicalWord p w = w :=
  if_pos (.inl h)

theorem canonicalWord_of_reserved {p : CmdPort} {w : CmdWord} (h : reservedOn p w = true) : canonicalWord p w = w :=
  if_pos (.inr h)

theorem canonicalWord_enc_of_command {w : CmdWord} {op : BitVec 3} (h : opField w = op)
    (hop : op ∉ [2#3, 6#3, 7#3]) : canonicalWord .enc w = cmdWord op 0x00#8 := by
  subst h
  exact if_neg (by simpa [reservedOn_enc_iff] using hop)

theorem canonicalWord_dec_of_command {w : CmdWord} {op : BitVec 3} (h : opField w = op)
    (hop : op ∉ [2#3, 5#3, 6#3, 7#3]) : canonicalWord .dec w = cmdWord op 0x00#8 := by
  subst h
  exact if_neg (by simpa [reservedOn_dec_iff] using hop)

/-- The canonical form keeps the opcode. -/
theorem opField_canonicalWord (p : CmdPort) (w : CmdWord) : opField (canonicalWord p w) = opField w := by
  unfold canonicalWord
  split
  · rfl
  · exact opField_cmdWord _ _

theorem cmdWord_opdField_of_opField {op : BitVec 3} {w : CmdWord} (h : opField w = op) :
    cmdWord op (opdField w) = w := by
  rw [← h, cmdWord_fields]

/-- A word of `e_cw` decodes to a well-formed instruction, whose canonical port value is the canonical word. -/
theorem decodeEncWord_canonical (n : Nat) (w : CmdWord) :
    WellFormed (decodeEncWord n w) = true ∧
      encodeInput (decodeEncWord n w) = .encPort n false (canonicalWord .enc w) := by
  rcases decodeEncWord_cases n w with ⟨hop, hdec⟩ | ⟨hop, hdec⟩ | ⟨hop, hdec⟩ | ⟨hop, hdec⟩ | ⟨hop, hdec⟩ |
    ⟨hop, hdec⟩ | ⟨hop, hdec⟩ <;> rw [hdec]
  · exact ⟨rfl, by rw [canonicalWord_enc_of_command hop (by decide), encodeInput]⟩
  · exact ⟨rfl, by rw [canonicalWord_enc_of_command hop (by decide), encodeInput]⟩
  · exact ⟨rfl, by rw [canonicalWord_of_ingest _ hop, encodeInput, cmdWord_opdField_of_opField hop]⟩
  · exact ⟨rfl, by rw [canonicalWord_enc_of_command hop (by decide), encodeInput]⟩
  · exact ⟨rfl, by rw [canonicalWord_enc_of_command hop (by decide), encodeInput]⟩
  · exact ⟨rfl, by rw [canonicalWord_enc_of_command hop (by decide), encodeInput]⟩
  · have hres := (reservedOn_enc_iff w).2 hop
    exact ⟨hres, by rw [canonicalWord_of_reserved hres, encodeInput]⟩

/-- A word of `d_cw` decodes to a well-formed instruction, whose canonical port value is the canonical word. -/
theorem decodeDecWord_canonical (n : Nat) (w : CmdWord) :
    WellFormed (decodeDecWord n w) = true ∧
      encodeInput (decodeDecWord n w) = .decPort n false (canonicalWord .dec w) := by
  rcases decodeDecWord_cases n w with ⟨hop, hdec⟩ | ⟨hop, hdec⟩ | ⟨hop, hdec⟩ | ⟨hop, hdec⟩ | ⟨hop, hdec⟩ |
    ⟨hop, hdec⟩ | ⟨hop, hdec⟩ <;> rw [hdec]
  · exact ⟨rfl, by rw [canonicalWord_dec_of_command hop (by decide), encodeInput]⟩
  · exact ⟨rfl, by rw [canonicalWord_dec_of_command hop (by decide), encodeInput]⟩
  · exact ⟨rfl, by rw [canonicalWord_of_ingest _ hop, encodeInput, cmdWord_opdField_of_opField hop]⟩
  · exact ⟨rfl, by rw [canonicalWord_dec_of_command hop (by decide), encodeInput]⟩
  · exact ⟨rfl, by rw [canonicalWord_dec_of_command hop (by decide), encodeInput]⟩
  · have hres := (reservedOn_dec_iff w).2 (.inl hop)
    exact ⟨(reserved101_iff w).2 hop, by rw [canonicalWord_of_reserved hres, encodeInput]⟩
  · have hres := (reservedOn_dec_iff w).2 (.inr hop)
    exact ⟨(reserved11x_iff w).2 hop, by rw [canonicalWord_of_reserved hres, encodeInput]⟩

/-- Settles O2: the opcode maps opcode by opcode, with INGEST and the reserved words kept whole. -/
theorem encodeOfDecodedWordIsCanonical : Obligations.EncodeOfDecodedWordIsCanonical := by
  unfold Obligations.EncodeOfDecodedWordIsCanonical
  exact fun n w => ⟨decodeEncWord_canonical n w, decodeDecWord_canonical n w⟩

/-! ### The effect of a word (R74) -/

/-- The operand of a word is its low byte. -/
theorem toNat_opdField (w : CmdWord) : (opdField w).toNat = w.toNat % 256 := by
  simp [opdField]

theorem decodeEncWord_of_ingest (n : Nat) {w : CmdWord} (h : opField w = 2#3) :
    decodeEncWord n w = .encIngest n (opdField w) := by
  simp [decodeEncWord, h]

theorem decodeDecWord_of_ingest (n : Nat) {w : CmdWord} (h : opField w = 2#3) :
    decodeDecWord n w = .decIngest n (opdField w) := by
  simp [decodeDecWord, h]

/-- On `e_cw` only INGEST's operand has an effect: the other commands drop theirs, and ENC.ILLEGAL ignores its word. -/
theorem exec_decodeEncWord_congr (n : Nat) {w v : CmdWord} (s : State) (hop : opField w = opField v)
    (h : opField v ≠ 2#3) : exec (decodeEncWord n w) s = exec (decodeEncWord n v) s := by
  unfold decodeEncWord
  rw [hop, if_neg h, if_neg h]
  split_ifs <;> rfl

/-- On `d_cw` only INGEST's operand has an effect: the other commands drop theirs, and the two reserved rows ignore
their word. -/
theorem exec_decodeDecWord_congr (n : Nat) {w v : CmdWord} (s : State) (hop : opField w = opField v)
    (h : opField v ≠ 2#3) : exec (decodeDecWord n w) s = exec (decodeDecWord n v) s := by
  unfold decodeDecWord
  rw [hop, if_neg h, if_neg h]
  split_ifs <;> rfl

/-- Settles O5: INGEST takes the low byte, the effect of every other word depends on its opcode alone, and the
canonical words are computed. -/
theorem operandIsTakenAsItStandsOrIgnored : Obligations.OperandIsTakenAsItStandsOrIgnored := by
  unfold Obligations.OperandIsTakenAsItStandsOrIgnored
  refine ⟨fun n w hop => ?_, fun n w v s hw hop => ?_, fun n => ?_⟩
  · exact ⟨⟨_, toNat_opdField w, decodeEncWord_of_ingest n hop⟩, ⟨_, toNat_opdField w, decodeDecWord_of_ingest n hop⟩⟩
  · have hv : opField v ≠ 2#3 := fun hv => hw (hop.trans hv)
    exact ⟨exec_decodeEncWord_congr n s hop hv, exec_decodeDecWord_congr n s hop hv⟩
  · exact ⟨rfl, rfl, rfl, rfl, rfl, rfl, rfl, rfl, rfl⟩

/-! ### Digits (R80, R82) -/

theorem digitValue_hexDigit {d : Nat} (h : d < 16) : digitValue (hexDigit d) = some d := by
  revert d
  decide

/-- Reading printed hexadecimal digits adds them to the accumulator one by one. -/
theorem takeDigits_map_hexDigit (ds : List Nat) (hds : ∀ d ∈ ds, d < 16) (acc : Nat) :
    takeDigits 16 acc (ds.map hexDigit) = (ds.foldl (fun a d => a * 16 + d) acc, []) := by
  induction ds generalizing acc with
  | nil => rfl
  | cons d ds ih =>
    have hd : d < 16 := hds d (by simp)
    simp [takeDigits, digitValue_hexDigit hd, hd, ih fun e he => hds e (by simp [he])]

theorem takeNumber_map_hexDigit (d : Nat) (ds : List Nat) (hd : d < 16) (hds : ∀ e ∈ ds, e < 16) :
    takeNumber 16 ((d :: ds).map hexDigit) = some (ds.foldl (fun a e => a * 16 + e) d, []) := by
  simp [takeNumber, digitValue_hexDigit hd, hd, takeDigits_map_hexDigit ds hds]

/-- A printed byte is read back. -/
theorem takeOperand_hex2 {v : Nat} (h : v < 256) : takeOperand (hex2 v) = some (v, []) := by
  have hread := takeNumber_map_hexDigit (v / 16 % 16) [v % 16] (by omega) (by simp; omega)
  have hvalue : v / 16 % 16 * 16 + v % 16 = v := by omega
  simpa [hex2, takeOperand, hvalue] using hread

/-- A printed word is read back. -/
theorem takeOperand_hex3 {v : Nat} (h : v < 4096) : takeOperand (hex3 v) = some (v, []) := by
  have hread := takeNumber_map_hexDigit (v / 256 % 16) [v / 16 % 16, v % 16] (by omega) (by simp; omega)
  have hvalue : (v / 256 % 16 * 16 + v / 16 % 16) * 16 + v % 16 = v := by omega
  simpa [hex3, takeOperand, hvalue] using hread

/-! ### Printed lines (R82) -/

/-- The value of a printed byte assembles to INGEST's word. -/
theorem assembleForm_ingest_hex2 (p : CmdPort) (b : Byte) :
    assembleForm (.ingest p) (' ' :: hex2 b.toNat) = some (p, cmdWord 0b010#3 b) := by
  have hread : takeOperand (skipBlanks (' ' :: hex2 b.toNat)) = some (b.toNat, []) := takeOperand_hex2 b.isLt
  have hend : atEnd [] = true := rfl
  have hb : b.toNat < 256 := b.isLt
  simp [assembleForm, hread, hend, hb]

/-- The value of a printed reserved word assembles to that word. -/
theorem assembleForm_illegal_hex3 {p : CmdPort} {w : CmdWord} (h : reservedOn p w = true) :
    assembleForm (.illegal p) (' ' :: hex3 w.toNat) = some (p, w) := by
  have hw : w.toNat < 2048 := w.isLt
  have hread : takeOperand (skipBlanks (' ' :: hex3 w.toNat)) = some (w.toNat, []) := takeOperand_hex3 (by omega)
  have hend : atEnd [] = true := rfl
  simp [assembleForm, hread, hend, hw, h]

theorem assemble_disassemble_enc (w : CmdWord) :
    assemble (disassemble .enc w) = some (.enc, canonicalWord .enc w) := by
  rw [disassemble, wordInstr]
  rcases decodeEncWord_cases 0 w with ⟨hop, hdec⟩ | ⟨hop, hdec⟩ | ⟨hop, hdec⟩ | ⟨hop, hdec⟩ | ⟨hop, hdec⟩ |
    ⟨hop, hdec⟩ | ⟨hop, hdec⟩ <;> rw [hdec]
  · rw [canonicalWord_enc_of_command hop (by decide)]; rfl
  · rw [canonicalWord_enc_of_command hop (by decide)]; rfl
  · rw [canonicalWord_of_ingest _ hop]
    calc _ = assembleForm (.ingest .enc) (' ' :: hex2 (opdField w).toNat) := rfl
      _ = _ := by rw [assembleForm_ingest_hex2, cmdWord_opdField_of_opField hop]
  · rw [canonicalWord_enc_of_command hop (by decide)]; rfl
  · rw [canonicalWord_enc_of_command hop (by decide)]; rfl
  · rw [canonicalWord_enc_of_command hop (by decide)]; rfl
  · have hres := (reservedOn_enc_iff w).2 hop
    rw [canonicalWord_of_reserved hres]
    exact assembleForm_illegal_hex3 hres

theorem assemble_disassemble_dec (w : CmdWord) :
    assemble (disassemble .dec w) = some (.dec, canonicalWord .dec w) := by
  rw [disassemble, wordInstr]
  rcases decodeDecWord_cases 0 w with ⟨hop, hdec⟩ | ⟨hop, hdec⟩ | ⟨hop, hdec⟩ | ⟨hop, hdec⟩ | ⟨hop, hdec⟩ |
    ⟨hop, hdec⟩ | ⟨hop, hdec⟩ <;> rw [hdec]
  · rw [canonicalWord_dec_of_command hop (by decide)]; rfl
  · rw [canonicalWord_dec_of_command hop (by decide)]; rfl
  · rw [canonicalWord_of_ingest _ hop]
    calc _ = assembleForm (.ingest .dec) (' ' :: hex2 (opdField w).toNat) := rfl
      _ = _ := by rw [assembleForm_ingest_hex2, cmdWord_opdField_of_opField hop]
  · rw [canonicalWord_dec_of_command hop (by decide)]; rfl
  · rw [canonicalWord_dec_of_command hop (by decide)]; rfl
  · have hres := (reservedOn_dec_iff w).2 (.inl hop)
    rw [canonicalWord_of_reserved hres]
    exact assembleForm_illegal_hex3 hres
  · have hres := (reservedOn_dec_iff w).2 (.inr hop)
    rw [canonicalWord_of_reserved hres]
    exact assembleForm_illegal_hex3 hres

/-- The canonical form of a word is the word itself, or differs from it in an operand that has no effect. -/
theorem exec_wordInstr_canonicalWord (p : CmdPort) (w : CmdWord) (s : State) :
    exec (wordInstr p (canonicalWord p w)) s = exec (wordInstr p w) s := by
  by_cases h : opField w = 2#3
  · rw [canonicalWord_of_ingest p h]
  · cases p with
    | enc => exact exec_decodeEncWord_congr 0 s (opField_canonicalWord .enc w) h
    | dec => exact exec_decodeDecWord_congr 0 s (opField_canonicalWord .dec w) h

/-- Settles O6: the printed line is read back piece by piece (mnemonic, digits), and canonical words keep the effect. -/
theorem assemblingThePrintedTextKeepsTheEffect : Obligations.AssemblingThePrintedTextKeepsTheEffect := by
  unfold Obligations.AssemblingThePrintedTextKeepsTheEffect
  intro p w
  refine ⟨?_, exec_wordInstr_canonicalWord p w⟩
  cases p with
  | enc => exact assemble_disassemble_enc w
  | dec => exact assemble_disassemble_dec w

/-! ### The samples the host presents (R83, R84) -/

/-- A table word placed by `withFetchWord` is the next sample, and taking it leaves the state it was placed on. -/
theorem step_withFetchWord {s : State} {nbits w : Nat} {i : Instr} (h : decodeTableWord nbits w = some i) :
    step (s.withFetchWord nbits w) = exec i s := by
  obtain ⟨p, hp, rfl⟩ := Option.map_eq_some_iff.1 h
  rw [State.withFetchWord, presentTableWord, hp]
  exact step_of_input (presentFirst_inputs s p)

/-- Settles O7: the step decodes the oldest sample, and decoding gives back what was encoded. -/
theorem stepExecutesTheDecodedSample : Obligations.StepExecutesTheDecodedSample := by
  unfold Obligations.StepExecutesTheDecodedSample
  refine ⟨fun s p rest => step_of_input, fun s i rest hwf hin => ?_, fun s nbits w i => step_withFetchWord⟩
  rw [step_of_input hin, decodeInput_encodeInput hwf]

/-- Settles O8: with `rst` high the port value decodes to RESET, whose transaction leaves every field zero. -/
theorem rstPinActsAsReset : Obligations.RstPinActsAsReset := by
  unfold Obligations.RstPinActsAsReset
  constructor
  · intro s n w rest x hin hx
    have hstep : step s = exec (.encReset n) { s with inputs := rest } := step_of_input hin
    exact ⟨hstep, hstep ▸ exec_enc_goes (i := .encReset n) rfl hx rfl⟩
  · intro s n w rest x hin hx
    have hstep : step s = exec (.decReset n) { s with inputs := rest } := step_of_input hin
    exact ⟨hstep, hstep ▸ exec_dec_goes (i := .decReset n) rfl hx rfl⟩

/-- Settles O9: the idle edge maps over the instances and writes their responses only. -/
theorem idleEdgeActsAsNopOnEveryPort : Obligations.IdleEdgeActsAsNopOnEveryPort := by
  unfold Obligations.IdleEdgeActsAsNopOnEveryPort
  intro s hin
  refine ⟨idleEdge s, step_of_no_input hin, hin, rfl, by simp, by simp, fun n x hx => ?_, fun n x hx => ?_⟩
  · simp [hx, Response.zero]
  · simp [hx, Response.zero]

/-! ### Responses (R79)

R79's table as a property of a command's result. `encAccepted` and `decAccepted` are its rows for a command that is
accepted; `Answers` adds the row of a command that leaves a fault recorded. -/

/-- R79 for an accepted command of an encoder in state `e`, of result `r`: the number of characters now ready, or the
character retrieved. -/
def encAccepted (e : EncState) (r : EncState × Response) : Instr → Prop
  | .encNop _ | .encReset _ => r.2 = Response.zero
  | .encIngest _ _ => r.2 = ⟨r.1.qlen, 0#8⟩ ∧ (r.1.qlen = 1#2 ∨ r.1.qlen = 2#2)
  | .encFinish _ => r.2 = ⟨r.1.qlen, 0#8⟩ ∧ (r.1.qlen = 0#2 ∨ r.1.qlen = 1#2)
  | .encPad _ => r.2 = ⟨r.1.qlen, 0#8⟩ ∧ (r.1.qlen = 0#2 ∨ r.1.qlen = 1#2 ∨ r.1.qlen = 2#2)
  | .encGetc _ => r.2 = ⟨0#2, e.q0⟩
  | _ => False

/-- R79 for an accepted command of a decoder in state `d`, of result `r`: the number of bytes now ready, or the byte
retrieved. -/
def decAccepted (d : DecState) (r : DecState × Response) : Instr → Prop
  | .decNop _ | .decReset _ => r.2 = Response.zero
  | .decIngest _ _ | .decFinish _ => r.2 = ⟨slotCount r.1, 0#8⟩
  | .decGetc _ => r.2 = ⟨0#2, d.slot⟩
  | _ => False

/-- R79 for a command that leaves `fault` and responds `r`: zero with a fault recorded, else as the accepted command. -/
def Answers (fault : BitVec 3) (r : Response) (accepted : Prop) : Prop :=
  (fault ≠ 0#3 ∧ r = Response.zero) ∨ (fault = 0#3 ∧ accepted)

/-- R79 for encoder instruction `i`, of result `r` in state `e`. -/
abbrev EncAnswers (e : EncState) (i : Instr) (r : EncState × Response) : Prop :=
  Answers r.1.fault r.2 (encAccepted e r i)

/-- R79 for decoder instruction `i`, of result `r` in state `d`. -/
abbrev DecAnswers (d : DecState) (i : Instr) (r : DecState × Response) : Prop :=
  Answers r.1.fault r.2 (decAccepted d r i)

section
variable {fault : BitVec 3} {r : Response} {accepted : Prop}

theorem Answers.zero_of_fault (h : Answers fault r accepted) (hf : fault ≠ 0#3) : r = Response.zero := by
  rcases h with ⟨-, hzero⟩ | ⟨hok, -⟩
  · exact hzero
  · exact absurd hok hf

theorem Answers.accepted_of_no_fault (h : Answers fault r accepted) (hf : fault = 0#3) : accepted := by
  rcases h with ⟨hfault, -⟩ | ⟨-, hacc⟩
  · exact absurd hf hfault
  · exact hacc

/-- A command that answers zero when accepted always does. -/
theorem Answers.zero_of_accepted (h : Answers fault r accepted) (hz : accepted → r = Response.zero) :
    r = Response.zero := by
  rcases h with ⟨-, hzero⟩ | ⟨-, hacc⟩
  · exact hzero
  · exact hz hacc

end

theorem raiseEnc_answers (e : EncState) (i : Instr) {code : BitVec 3} (h : code ≠ 0#3) :
    EncAnswers e i (raiseEnc code e) := .inl ⟨h, rfl⟩

theorem raiseDec_answers (d : DecState) (i : Instr) {code : BitVec 3} (h : code ≠ 0#3) :
    DecAnswers d i (raiseDec code d) := .inl ⟨h, rfl⟩

/-- The freeze answers as a recorded fault does. -/
theorem unlessFaultedEnc_answers {f : EncState → EncState × Response} {e : EncState} {i : Instr}
    (h : e.fault = 0#3 → EncAnswers e i (f e)) : EncAnswers e i (unlessFaultedEnc f e) := by
  by_cases hf : e.fault = 0#3
  · rw [unlessFaultedEnc_of_no_fault f e hf]
    exact h hf
  · rw [unlessFaultedEnc_of_fault f e hf]
    exact .inl ⟨hf, rfl⟩

/-- The freeze answers as a recorded fault does. -/
theorem unlessFaultedDec_answers {f : DecState → DecState × Response} {d : DecState} {i : Instr}
    (h : d.fault = 0#3 → DecAnswers d i (f d)) : DecAnswers d i (unlessFaultedDec f d) := by
  by_cases hf : d.fault = 0#3
  · rw [unlessFaultedDec_of_no_fault f d hf]
    exact h hf
  · rw [unlessFaultedDec_of_fault f d hf]
    exact .inl ⟨hf, rfl⟩

theorem encIngestStep_answers (n : Nat) (b : Byte) {e : EncState} (hf : e.fault = 0#3) :
    EncAnswers e (.encIngest n b) (encIngestStep b e) := by
  rcases encIngestStep_cases b e with ⟨-, h⟩ | ⟨-, -, h⟩ | ⟨-, -, -, h⟩ | ⟨-, -, -, h⟩ | ⟨-, -, -, h⟩ |
    ⟨-, -, -, h⟩ <;> rw [h]
  · exact raiseEnc_answers e _ (by decide)
  · exact raiseEnc_answers e _ (by decide)
  · exact .inr ⟨hf, rfl, .inl rfl⟩
  · exact .inr ⟨hf, rfl, .inl rfl⟩
  · exact .inr ⟨hf, rfl, .inr rfl⟩
  · exact raiseEnc_answers e _ (by decide)

theorem encGetcStep_answers (n : Nat) {e : EncState} (hf : e.fault = 0#3) :
    EncAnswers e (.encGetc n) (encGetcStep e) := by
  rcases encGetcStep_cases e with ⟨-, h⟩ | ⟨-, h⟩ <;> rw [h]
  · exact raiseEnc_answers e _ (by decide)
  · exact .inr ⟨hf, rfl⟩

theorem encFinishStep_answers (n : Nat) {e : EncState} (hf : e.fault = 0#3) :
    EncAnswers e (.encFinish n) (encFinishStep e) := by
  rcases encFinishStep_cases e with ⟨-, h⟩ | ⟨-, -, h⟩ | ⟨-, hq, -, h⟩ | ⟨-, -, -, h⟩ | ⟨-, -, -, h⟩ |
    ⟨-, -, -, h⟩ <;> rw [h]
  · exact raiseEnc_answers e _ (by decide)
  · exact raiseEnc_answers e _ (by decide)
  · exact .inr ⟨hf, by simp [hq], .inl hq⟩
  · exact .inr ⟨hf, rfl, .inr rfl⟩
  · exact .inr ⟨hf, rfl, .inr rfl⟩
  · exact raiseEnc_answers e _ (by decide)

theorem encPadStep_answers (n : Nat) {e : EncState} (hf : e.fault = 0#3) :
    EncAnswers e (.encPad n) (encPadStep e) := by
  rcases encPadStep_cases e with ⟨-, h⟩ | ⟨-, -, h⟩ | ⟨-, hq, -, h⟩ | ⟨-, -, -, h⟩ | ⟨-, -, -, h⟩ |
    ⟨-, -, -, h⟩ <;> rw [h]
  · exact raiseEnc_answers e _ (by decide)
  · exact raiseEnc_answers e _ (by decide)
  · exact .inr ⟨hf, by simp [hq], .inl hq⟩
  · exact .inr ⟨hf, rfl, .inr (.inr rfl)⟩
  · exact .inr ⟨hf, rfl, .inr (.inl rfl)⟩
  · exact raiseEnc_answers e _ (by decide)

/-- Every instruction of encoder `n`'s port answers as R79 says. -/
theorem encEffect_answers {i : Instr} {n : Nat} (hu : unitOf i = .enc n) (e : EncState) :
    EncAnswers e i (encEffect i e) := by
  cases i <;> simp only [unitOf, UnitId.enc.injEq, reduceCtorEq] at hu <;> subst hu
  case encNop m => exact unlessFaultedEnc_answers fun hf => .inr ⟨hf, rfl⟩
  case encReset m => exact .inr ⟨rfl, rfl⟩
  case encIngest m b => exact unlessFaultedEnc_answers (encIngestStep_answers m b)
  case encGetc m => exact unlessFaultedEnc_answers (encGetcStep_answers m)
  case encFinish m => exact unlessFaultedEnc_answers (encFinishStep_answers m)
  case encPad m => exact unlessFaultedEnc_answers (encPadStep_answers m)
  case encIllegal m w => exact unlessFaultedEnc_answers fun _ => raiseEnc_answers e _ (by decide)

theorem decIngestStep_answers (n : Nat) (c : Byte) {d : DecState} (hf : d.fault = 0#3) :
    DecAnswers d (.decIngest n c) (decIngestStep c d) := by
  rcases decIngestStep_cases c d with ⟨-, h⟩ | ⟨-, -, h⟩ | ⟨-, -, -, h⟩ | ⟨-, hv, -, h⟩ | ⟨-, hv, -, -, h⟩ |
    ⟨-, hv, -, -, -, h⟩ | ⟨-, -, -, -, -, h⟩ | ⟨-, -, -, -, -, h⟩ | ⟨-, -, -, -, -, h⟩ <;> rw [h]
  · exact raiseDec_answers d _ (by decide)
  · exact raiseDec_answers d _ (by decide)
  · exact raiseDec_answers d _ (by decide)
  · exact .inr ⟨hf, by simp [decAccepted, slotCount, hv]⟩
  · exact .inr ⟨hf, by simp [decAccepted, slotCount, hv]⟩
  · exact .inr ⟨hf, by simp [decAccepted, slotCount, hv]⟩
  · exact .inr ⟨hf, rfl⟩
  · exact .inr ⟨hf, rfl⟩
  · exact .inr ⟨hf, rfl⟩

theorem decGetcStep_answers (n : Nat) {d : DecState} (hf : d.fault = 0#3) :
    DecAnswers d (.decGetc n) (decGetcStep d) := by
  rcases decGetcStep_cases d with ⟨-, h⟩ | ⟨-, h⟩ <;> rw [h]
  · exact raiseDec_answers d _ (by decide)
  · exact .inr ⟨hf, rfl⟩

theorem decFinishStep_answers (n : Nat) {d : DecState} (hf : d.fault = 0#3) :
    DecAnswers d (.decFinish n) (decFinishStep d) := by
  rcases decFinishStep_cases d with ⟨-, h⟩ | ⟨-, h⟩ <;> rw [h]
  · exact raiseDec_answers d _ (by decide)
  · exact .inr ⟨hf, rfl⟩

/-- Every instruction of decoder `n`'s port answers as R79 says. -/
theorem decEffect_answers {i : Instr} {n : Nat} (hu : unitOf i = .dec n) (d : DecState) :
    DecAnswers d i (decEffect i d) := by
  cases i <;> simp only [unitOf, UnitId.dec.injEq, reduceCtorEq] at hu <;> subst hu
  case decNop m => exact unlessFaultedDec_answers fun hf => .inr ⟨hf, rfl⟩
  case decReset m => exact .inr ⟨rfl, rfl⟩
  case decIngest m c => exact unlessFaultedDec_answers (decIngestStep_answers m c)
  case decGetc m => exact unlessFaultedDec_answers (decGetcStep_answers m)
  case decFinish m => exact unlessFaultedDec_answers (decFinishStep_answers m)
  case decIllegal101 m w => exact unlessFaultedDec_answers fun _ => raiseDec_answers d _ (by decide)
  case decIllegal11x m w => exact unlessFaultedDec_answers fun _ => raiseDec_answers d _ (by decide)

/-- After an instruction that completes, the addressed encoder shows R79's response. -/
theorem exec_encAnswers {i : Instr} {s t : State} {n : Nat} {x y : EncInstance} (hu : unitOf i = .enc n)
    (h : exec i s = .next t) (hx : s.encs[n]? = some x) (hy : t.encs[n]? = some y) :
    EncAnswers x.reg i (y.reg, y.out) := by
  rcases exec_enc_after h hx hy with ⟨-, rfl⟩ | ⟨hne, -⟩
  · exact encEffect_answers hu x.reg
  · exact absurd hu hne

/-- After an instruction that completes, the addressed decoder shows R79's response. -/
theorem exec_decAnswers {i : Instr} {s t : State} {n : Nat} {x y : DecInstance} (hu : unitOf i = .dec n)
    (h : exec i s = .next t) (hx : s.decs[n]? = some x) (hy : t.decs[n]? = some y) :
    DecAnswers x.reg i (y.reg, y.out) := by
  rcases exec_dec_after h hx hy with ⟨-, rfl⟩ | ⟨hne, -⟩
  · exact decEffect_answers hu x.reg
  · exact absurd hu hne

/-- Settles O39: each clause is a row of `encAccepted` or `decAccepted`, or the row of a recorded fault. -/
theorem responseOfEveryCommand : Obligations.ResponseOfEveryCommand := by
  unfold Obligations.ResponseOfEveryCommand
  constructor
  · intro i s t n x y hu h hx hy
    have hans := exec_encAnswers hu h hx hy
    refine ⟨hans.zero_of_fault, fun hi => hans.zero_of_accepted fun hacc => ?_, fun hf hi => ?_, fun hf hi => ?_,
      fun hf hi => ?_, fun hf hi => ?_, fun hf hi => ?_⟩
    · rcases hi with rfl | rfl <;> exact hacc
    · rcases hi with ⟨b, rfl⟩ | rfl | rfl <;> exact (hans.accepted_of_no_fault hf).1
    · obtain ⟨b, rfl⟩ := hi
      exact (hans.accepted_of_no_fault hf).2
    · subst hi
      exact (hans.accepted_of_no_fault hf).2
    · subst hi
      exact (hans.accepted_of_no_fault hf).2
    · subst hi
      exact hans.accepted_of_no_fault hf
  · intro i s t n x y hu h hx hy
    have hans := exec_decAnswers hu h hx hy
    refine ⟨hans.zero_of_fault, fun hi => hans.zero_of_accepted fun hacc => ?_, fun hf hi => ?_, fun hf hi => ?_⟩
    · rcases hi with rfl | rfl <;> exact hacc
    · rcases hi with ⟨c, rfl⟩ | rfl <;> exact hans.accepted_of_no_fault hf
    · subst hi
      exact hans.accepted_of_no_fault hf

end Sys2Proof.Machine

namespace Sys2Proof.Machine

/-! ### The lookups as functions (R90, R91, R93) -/

/-- What the closed form of ENC_ROM says of a character: it lies in one of the five ranges of R93. -/
theorem encRom_ranges (i : Sym) :
    (0x41 ≤ (encRom i).toNat ∧ (encRom i).toNat ≤ 0x5A) ∨ (0x61 ≤ (encRom i).toNat ∧ (encRom i).toNat ≤ 0x7A) ∨
      (0x30 ≤ (encRom i).toNat ∧ (encRom i).toNat ≤ 0x39) ∨ encRom i = 0x2D#8 ∨ encRom i = 0x5F#8 := by
  have hi : i.toNat ≤ 25 ∨ (26 ≤ i.toNat ∧ i.toNat ≤ 51) ∨ (52 ≤ i.toNat ∧ i.toNat ≤ 61) ∨ i.toNat = 62 ∨
      i.toNat = 63 := by omega
  rcases hi with h | h | h | h | h
  · have hc := encRom_toNat_of_upper h
    exact .inl (by omega)
  · have hc := encRom_toNat_of_lower h
    exact .inr (.inl (by omega))
  · have hc := encRom_toNat_of_digit h
    exact .inr (.inr (.inl (by omega)))
  · exact .inr (.inr (.inr (.inl (encRom_of_62 h))))
  · exact .inr (.inr (.inr (.inr (encRom_of_63 h))))

@[simp] theorem lutDec_lutEnc (i : Sym) : lutDec (lutEnc i) = { sym := i, valid := true, pad := false } := by
  have hsym : BitVec.extractLsb' (n := 8) 0 6 (0b01#2 ++ i) = i := BitVec.extractLsb'_append_eq_right
  have hvalid : BitVec.extractLsb' (n := 8) 6 1 (0b01#2 ++ i) = 1#1 := BitVec.extractLsb'_append_eq_of_le (by decide)
  have hpad : BitVec.extractLsb' (n := 8) 7 1 (0b01#2 ++ i) = 0#1 := BitVec.extractLsb'_append_eq_of_le (by decide)
  simp [lutDec, lutEnc, decRom_encRom, hsym, hvalid, hpad]

/-- A code has a valid entry exactly if ENC_ROM holds it: the pad entry and the zero entry have `valid` 0. -/
theorem lutDec_valid_iff_exists_lutEnc (c : Byte) : (lutDec c).valid = true ↔ ∃ i, lutEnc i = c := by
  constructor
  · intro hvalid
    rcases decRom_classes c with halpha | rfl | hzero
    · exact halpha
    · exact absurd hvalid (by decide)
    · exact absurd hvalid (by simp [lutDec, hzero])
  · rintro ⟨i, rfl⟩
    rw [lutDec_lutEnc]

theorem lutEnc_sym_lutDec {c : Byte} (h : (lutDec c).valid = true) : lutEnc (lutDec c).sym = c := by
  obtain ⟨i, rfl⟩ := (lutDec_valid_iff_exists_lutEnc c).1 h
  rw [lutDec_lutEnc]

/-- A code that ENC_ROM holds at index `k` decodes to `k`. -/
theorem lutDec_of_encRom {c : Byte} {k : Nat} (hk : k < 64)
    (h : ∀ i : Sym, i.toNat = k → (encRom i).toNat = c.toNat) :
    (lutDec c).valid = true ∧ (lutDec c).sym.toNat = k := by
  obtain ⟨i, hi⟩ := exists_sym_toNat_eq hk
  obtain rfl : lutEnc i = c := BitVec.eq_of_toNat_eq (h i hi)
  rw [lutDec_lutEnc]
  exact ⟨rfl, hi⟩

theorem lutDec_of_upper {c : Byte} (h : 0x41 ≤ c.toNat ∧ c.toNat ≤ 0x5A) :
    (lutDec c).valid = true ∧ (lutDec c).sym.toNat = c.toNat - 0x41 :=
  lutDec_of_encRom (by omega) fun i hi => (encRom_toNat_of_upper (by omega)).trans (by omega)

theorem lutDec_of_lower {c : Byte} (h : 0x61 ≤ c.toNat ∧ c.toNat ≤ 0x7A) :
    (lutDec c).valid = true ∧ (lutDec c).sym.toNat = c.toNat - 0x61 + 26 :=
  lutDec_of_encRom (by omega) fun i hi => (encRom_toNat_of_lower (by omega)).trans (by omega)

theorem lutDec_of_digit {c : Byte} (h : 0x30 ≤ c.toNat ∧ c.toNat ≤ 0x39) :
    (lutDec c).valid = true ∧ (lutDec c).sym.toNat = c.toNat - 0x30 + 52 :=
  lutDec_of_encRom (by omega) fun i hi => (encRom_toNat_of_digit (by omega)).trans (by omega)

theorem lutDec_hyphen : lutDec 0x2D#8 = { sym := 62#6, valid := true, pad := false } := lutDec_lutEnc 62#6

theorem lutDec_underscore : lutDec 0x5F#8 = { sym := 63#6, valid := true, pad := false } := lutDec_lutEnc 63#6

/-- The valid codes are the ranges of R93. -/
theorem lutDec_valid_iff_ranges (c : Byte) : (lutDec c).valid = true ↔
    (0x41 ≤ c.toNat ∧ c.toNat ≤ 0x5A) ∨ (0x61 ≤ c.toNat ∧ c.toNat ≤ 0x7A) ∨ (0x30 ≤ c.toNat ∧ c.toNat ≤ 0x39) ∨
      c = 0x2D#8 ∨ c = 0x5F#8 := by
  constructor
  · intro hvalid
    obtain ⟨i, rfl⟩ := (lutDec_valid_iff_exists_lutEnc c).1 hvalid
    exact encRom_ranges i
  · rintro (h | h | h | rfl | rfl)
    · exact (lutDec_of_upper h).1
    · exact (lutDec_of_lower h).1
    · exact (lutDec_of_digit h).1
    · rw [lutDec_hyphen]
    · rw [lutDec_underscore]

/-- Settles O14: validity is membership in ENC_ROM, so every clause but the count is read off ENC_ROM's closed form. -/
theorem lookupsAreInverse : Obligations.LookupsAreInverse := by
  unfold Obligations.LookupsAreInverse
  refine ⟨lutDec_lutEnc, fun c => lutEnc_sym_lutDec, lutDec_valid_iff_ranges, by decide, fun c =>
    ⟨fun h => (lutDec_of_upper h).2, fun h => (lutDec_of_lower h).2, fun h => (lutDec_of_digit h).2, ?_, ?_⟩⟩
  · rintro rfl
    rw [lutDec_hyphen]
  · rintro rfl
    rw [lutDec_underscore]

/-! ### The lookups as instructions (R72, R90, R91) -/

section
variable (s : State) (i : Sym) (c : Byte)

theorem exec_lutEnc : exec (.lutEnc i) s = .next (driveEncSym i s) := rfl

theorem exec_lutDec : exec (.lutDec c) s = .next (driveDecChar c s) := rfl

@[simp] theorem encCharPin_driveEncSym : encCharPin (driveEncSym i s) = encRom i := rfl

@[simp] theorem decPins_driveEncSym : decPins (driveEncSym i s) = decPins s := rfl

@[simp] theorem encCharPin_driveDecChar : encCharPin (driveDecChar c s) = encCharPin s := rfl

@[simp] theorem decPins_driveDecChar : decPins (driveDecChar c s) = lutDec c := rfl

end

/-- Settles O15: the next state is the one with `enc_sym` driven, whose entry O12 found in the printed table. -/
theorem lutEncShowsTheEntry : Obligations.LutEncShowsTheEntry := by
  unfold Obligations.LutEncShowsTheEntry
  intro i s
  refine ⟨driveEncSym i s, exec_lutEnc s i, ?_, decPins_driveEncSym s i, driveEncSym_decChar s i,
    driveEncSym_encs s i, driveEncSym_decs s i, driveEncSym_inputs s i⟩
  rw [encCharPin_driveEncSym, encRomPrinted_getElem?]

theorem lutDec_sym_toNat (c : Byte) : (lutDec c).sym.toNat = (decRom c).toNat % 64 := by
  simp [lutDec]

/-- A one-bit field of a word is 1 exactly if the bit is set in the word's value. -/
theorem extractLsb'_one_beq_one_iff {w : Nat} (e : BitVec w) (k : Nat) :
    (e.extractLsb' k 1 == 1#1) = true ↔ e.toNat / 2 ^ k % 2 = 1 := by
  simp [← BitVec.toNat_inj, Nat.shiftRight_eq_div_pow]

theorem lutDec_valid_iff (c : Byte) : (lutDec c).valid = true ↔ (decRom c).toNat / 64 % 2 = 1 :=
  extractLsb'_one_beq_one_iff (decRom c) 6

theorem lutDec_pad_iff (c : Byte) : (lutDec c).pad = true ↔ (decRom c).toNat / 128 = 1 := by
  have hbit : (lutDec c).pad = true ↔ (decRom c).toNat / 128 % 2 = 1 := extractLsb'_one_beq_one_iff (decRom c) 7
  rw [hbit]
  omega

theorem lutDec_not_valid_and_pad (c : Byte) : ¬((lutDec c).valid = true ∧ (lutDec c).pad = true) := by
  rintro ⟨hvalid, hpad⟩
  rcases lutDec_classes c with ⟨-, h, -⟩ | ⟨h, -⟩ | ⟨h, -⟩
  · exact Bool.false_ne_true (h.symm.trans hpad)
  · exact Bool.false_ne_true (h.symm.trans hvalid)
  · exact Bool.false_ne_true (h.symm.trans hvalid)

/-- The upper half of the grid is zero: neither ENC_ROM nor `=` has a code from 0x80 on. -/
theorem lutDec_of_high {c : Byte} (h : 0x80 ≤ c.toNat) : lutDec c = { sym := 0, valid := false, pad := false } := by
  rcases decRom_classes c with ⟨i, rfl⟩ | rfl | hzero
  · rcases encRom_ranges i with hc | hc | hc | hc | hc
    · omega
    · omega
    · omega
    · exact absurd h (by rw [hc]; decide)
    · exact absurd h (by rw [hc]; decide)
  · exact absurd h (by decide)
  · simp [lutDec, hzero]

/-- Settles O16: the next state is the one with `dec_char` driven, whose pins are the fields of the entry O13 found in
the printed grid. -/
theorem lutDecShowsTheEntry : Obligations.LutDecShowsTheEntry := by
  unfold Obligations.LutDecShowsTheEntry
  intro c s
  refine ⟨driveDecChar c s, decRom c, exec_lutDec s c, decRomPrinted_getElem? c, ?_⟩
  rw [decPins_driveDecChar]
  exact ⟨lutDec_sym_toNat c, lutDec_valid_iff c, lutDec_pad_iff c, lutDec_not_valid_and_pad c, lutDec_of_high,
    encCharPin_driveDecChar s c, driveDecChar_encSym s c, driveDecChar_encs s c, driveDecChar_decs s c,
    driveDecChar_inputs s c⟩

end Sys2Proof.Machine

namespace Sys2Proof.Machine

/-! ### The words of the encoder's commands (R74, R75) -/

section
variable (n : Nat) {w : CmdWord}

theorem decodeInput_encPort_of_nop (h : opField w = 0#3) : decodeInput (.encPort n false w) = .encNop n := by
  simp [decodeInput, decodeEncWord, h]

theorem decodeInput_encPort_of_reset (h : opField w = 1#3) : decodeInput (.encPort n false w) = .encReset n := by
  simp [decodeInput, decodeEncWord, h]

theorem decodeInput_encPort_of_getc (h : opField w = 3#3) : decodeInput (.encPort n false w) = .encGetc n := by
  simp [decodeInput, decodeEncWord, h]

theorem decodeInput_encPort_of_finish (h : opField w = 4#3) : decodeInput (.encPort n false w) = .encFinish n := by
  simp [decodeInput, decodeEncWord, h]

theorem decodeInput_encPort_of_pad (h : opField w = 5#3) : decodeInput (.encPort n false w) = .encPad n := by
  simp [decodeInput, decodeEncWord, h]

end

/-- `0x200 | b`, the word of an INGEST (R103, R123), has opcode 0b010 and operand `b`. -/
theorem ingestWord_eq_cmdWord (b : Byte) : 0x200#11 ||| b.setWidth 11 = cmdWord 0b010#3 b := by
  ext i hi
  rw [cmdWord, BitVec.getElem_append]
  interval_cases i <;> simp

theorem extractLsb'_one_opField (w : CmdWord) : (opField w).extractLsb' 1 2 = w.extractLsb' 9 2 := by
  ext i hi
  interval_cases i <;> simp [opField]

/-- The words with `w[10:9] = 0b11` are the reserved ones (R78). -/
theorem reserved11x_of_topBits {w : CmdWord} (h : w.extractLsb' 9 2 = 3#2) : reserved11x w = true := by
  rw [← extractLsb'_one_opField] at h
  rw [reserved11x_iff]
  generalize opField w = op at h ⊢
  revert op
  decide

/-! ### The slices of R103 and R105 in the source's shift-and-mask form (R111) -/

section
variable (p b : Byte)

theorem symPhase0_eq_srcSym0 : symPhase0 b = srcSym0 b := by
  ext i hi
  simp [symPhase0, srcSym0]

theorem symPhase1_eq_srcSym1 : symPhase1 p b = srcSym1 p b := by
  ext i hi
  rw [symPhase1, BitVec.getElem_append]
  interval_cases i <;> simp [srcSym1]

theorem symPhase2_eq_srcSym2 : symPhase2 p b = srcSym2 p b := by
  ext i hi
  rw [symPhase2, BitVec.getElem_append]
  interval_cases i <;> simp [srcSym2]

theorem symLast_eq_srcSym3 : symLast b = srcSym3 b := by
  ext i hi
  interval_cases i <;> simp [symLast, srcSym3]

/-- A flushed symbol is the one the byte 0x00 would have completed. -/
theorem symFlush1_eq_srcSym1 : symFlush1 p = srcSym1 p 0 :=
  symPhase1_eq_srcSym1 p 0

theorem symFlush2_eq_srcSym2 : symFlush2 p = srcSym2 p 0 :=
  symPhase2_eq_srcSym2 p 0

end

/-! ### The encoder's commands (R100 to R107) -/

/-- A command other than RESET on an encoder without a fault does what its step function says. -/
theorem exec_encCommand_goes {i : Instr} {n : Nat} {s : State} {x : EncInstance} {f : EncState → EncState × Response}
    {e : EncState} {count : BitVec 2} {dout : Byte} (hu : unitOf i = .enc n) (hi : encEffect i = unlessFaultedEnc f)
    (hx : s.encs[n]? = some x) (hf : x.reg.fault = 0#3) (h : f x.reg = (e, ⟨count, dout⟩)) :
    EncGoes i s n e count dout :=
  exec_enc_goes hu hx (by rw [hi, unlessFaultedEnc_of_no_fault f _ hf, h])

/-- The freeze (R100 line 2): every command but RESET leaves a faulted encoder as it is. -/
theorem encEffect_of_fault {i : Instr} {n : Nat} {e : EncState} (hu : unitOf i = .enc n) (hi : i ≠ .encReset n)
    (hf : e.fault ≠ 0#3) : encEffect i e = (e, Response.zero) := by
  cases i <;> simp only [unitOf, UnitId.enc.injEq, reduceCtorEq] at hu <;> subst hu
  case encReset => exact absurd rfl hi
  case encNop | encIngest | encGetc | encFinish | encPad | encIllegal => exact unlessFaultedEnc_of_fault _ e hf

/-- Settles O24: the freeze is part of every command's effect but RESET's. -/
theorem encFaultedIsFrozen : Obligations.EncFaultedIsFrozen := by
  unfold Obligations.EncFaultedIsFrozen
  intro i s n x hu hi hx hf
  exact exec_enc_goes hu hx (encEffect_of_fault hu hi hf)

/-- Settles O17: NOP's step changes nothing, and op 0 selects it. -/
theorem encNopRule : Obligations.EncNopRule := by
  unfold Obligations.EncNopRule
  exact ⟨fun s n x hx hf => exec_encCommand_goes rfl rfl hx hf rfl, fun n w => decodeInput_encPort_of_nop n⟩

/-- Settles O18: RESET's transaction does not look at the state it clears, and `rst` or op 1 selects it. -/
theorem encResetRule : Obligations.EncResetRule := by
  unfold Obligations.EncResetRule
  exact ⟨fun s n x hx => exec_enc_goes rfl hx rfl, fun n w => ⟨rfl, decodeInput_encPort_of_reset n⟩⟩

/-- Settles O19: the cases of INGEST's step, each the conclusion of one clause and against the condition of the
others. -/
theorem encIngestRule : Obligations.EncIngestRule := by
  unfold Obligations.EncIngestRule
  refine ⟨fun n b => by rw [ingestWord_eq_cmdWord]; exact decodeInput_encodeInput (i := .encIngest n b) rfl, ?_⟩
  intro s n x b hx hf
  have hgo {e count dout} (h : encIngestStep b x.reg = (e, ⟨count, dout⟩)) :
      EncGoes (.encIngest n b) s n e count dout := exec_encCommand_goes rfl rfl hx hf h
  rcases encIngestStep_cases b x.reg with ⟨hs, h⟩ | ⟨hs, hq, h⟩ | ⟨hs, hq, hp, h⟩ | ⟨hs, hq, hp, h⟩ |
    ⟨hs, hq, hp, h⟩ | ⟨hs, hq, hp, h⟩
  · exact ⟨fun _ => hgo h, fun hs' => absurd hs' hs, fun hs' => absurd hs' hs⟩
  · exact ⟨fun hs' => absurd hs hs', fun _ _ => hgo h, fun _ hq' => absurd hq' hq⟩
  · rw [symPhase0_eq_srcSym0] at h
    exact ⟨fun hs' => absurd hs hs', fun _ hq' => absurd hq hq', fun _ _ =>
      ⟨fun _ => hgo h, by simp [hp], by simp [hp]⟩⟩
  · rw [symPhase1_eq_srcSym1] at h
    exact ⟨fun hs' => absurd hs hs', fun _ hq' => absurd hq hq', fun _ _ =>
      ⟨by simp [hp], fun _ => hgo h, by simp [hp]⟩⟩
  · rw [symPhase2_eq_srcSym2, symLast_eq_srcSym3] at h
    exact ⟨fun hs' => absurd hs hs', fun _ hq' => absurd hq hq', fun _ _ =>
      ⟨by simp [hp], by simp [hp], fun _ => hgo h⟩⟩
  · exact ⟨fun hs' => absurd hs hs', fun _ hq' => absurd hq hq', fun _ _ => by simp [hp]⟩

/-- GETC on a queue that is not empty takes its head (R104). -/
theorem exec_encGetc_goes {s : State} {n : Nat} {x : EncInstance} (hx : s.encs[n]? = some x)
    (hf : x.reg.fault = 0#3) (hq : x.reg.qlen ≠ 0#2) : EncGoes (.encGetc n) s n (deq x.reg) 0#2 x.reg.q0 := by
  rcases encGetcStep_cases x.reg with ⟨hq', -⟩ | ⟨-, h⟩
  · exact absurd hq' hq
  · exact exec_encCommand_goes rfl rfl hx hf h

/-- The count falls by one without wrapping. -/
theorem qlen_sub_one {q : BitVec 2} (h : q ≠ 0#2) : q - 1#2 = BitVec.ofNat 2 (q.toNat - 1) := by
  revert q
  decide

/-- Settles O20: GETC on an empty queue raises, on any other it is `deq`. -/
theorem encGetcRule : Obligations.EncGetcRule := by
  unfold Obligations.EncGetcRule
  refine ⟨fun n w => decodeInput_encPort_of_getc n, fun s n x hx hf => ⟨fun hq => ?_, fun hq => ?_⟩⟩
  · rcases encGetcStep_cases x.reg with ⟨-, h⟩ | ⟨hq', -⟩
    · exact exec_encCommand_goes rfl rfl hx hf h
    · exact absurd hq hq'
  · rw [← qlen_sub_one hq]
    exact exec_encGetc_goes hx hf hq

/-- Settles O21: the cases of FINISH's step, with the flushed symbols as the source has them. -/
theorem encFinishRule : Obligations.EncFinishRule := by
  unfold Obligations.EncFinishRule
  refine ⟨fun n w => decodeInput_encPort_of_finish n, fun s n x hx hf => ?_⟩
  have hgo {e count dout} (h : encFinishStep x.reg = (e, ⟨count, dout⟩)) :
      EncGoes (.encFinish n) s n e count dout := exec_encCommand_goes rfl rfl hx hf h
  rcases encFinishStep_cases x.reg with ⟨hs, h⟩ | ⟨hs, hq, h⟩ | ⟨hs, hq, hp, h⟩ | ⟨hs, hq, hp, h⟩ |
    ⟨hs, hq, hp, h⟩ | ⟨hs, hq, hp, h⟩
  · exact ⟨fun _ => hgo h, fun hs' => absurd hs' hs, fun hs' => absurd hs' hs⟩
  · exact ⟨fun hs' => absurd hs hs', fun _ _ => hgo h, fun _ hq' => absurd hq' hq⟩
  · exact ⟨fun hs' => absurd hs hs', fun _ hq' => absurd hq hq', fun _ _ =>
      ⟨fun _ => hgo h, by simp [hp], by simp [hp]⟩⟩
  · rw [symFlush1_eq_srcSym1] at h
    exact ⟨fun hs' => absurd hs hs', fun _ hq' => absurd hq hq', fun _ _ =>
      ⟨by simp [hp], fun _ => hgo h, by simp [hp]⟩⟩
  · rw [symFlush2_eq_srcSym2] at h
    exact ⟨fun hs' => absurd hs hs', fun _ hq' => absurd hq hq', fun _ _ =>
      ⟨by simp [hp], by simp [hp], fun _ => hgo h⟩⟩
  · exact ⟨fun hs' => absurd hs hs', fun _ hq' => absurd hq hq', fun _ _ => by simp [hp]⟩

/-- Settles O22: the cases of PAD's step; at each phase the number of `=` is `(3 - phase) mod 3`. -/
theorem encPadRule : Obligations.EncPadRule := by
  unfold Obligations.EncPadRule
  refine ⟨fun n w => decodeInput_encPort_of_pad n, fun s n x hx hf => ?_⟩
  have hgo {e count dout} (h : encPadStep x.reg = (e, ⟨count, dout⟩)) :
      EncGoes (.encPad n) s n e count dout := exec_encCommand_goes rfl rfl hx hf h
  rcases encPadStep_cases x.reg with ⟨hs, h⟩ | ⟨hs, hq, h⟩ | ⟨hs, hq, hp, h⟩ | ⟨hs, hq, hp, h⟩ |
    ⟨hs, hq, hp, h⟩ | ⟨hs, hq, hp, h⟩
  · exact ⟨fun _ => hgo h, fun hs' => absurd hs' hs, fun hs' => absurd hs' hs⟩
  · exact ⟨fun hs' => absurd hs hs', fun _ _ => hgo h, fun _ hq' => absurd hq' hq⟩
  · exact ⟨fun hs' => absurd hs hs', fun _ hq' => absurd hq hq', fun _ _ _ => hgo (by simp [h, hp, hq])⟩
  · exact ⟨fun hs' => absurd hs hs', fun _ hq' => absurd hq hq', fun _ _ _ => hgo (by simp [h, hp, padChar])⟩
  · exact ⟨fun hs' => absurd hs hs', fun _ hq' => absurd hq hq', fun _ _ _ => hgo (by simp [h, hp, padChar])⟩
  · exact ⟨fun hs' => absurd hs hs', fun _ hq' => absurd hq hq', fun _ _ => by simp [hp]⟩

/-- Settles O23: the step of a reserved word raises code 5, the freeze comes before it, and the two top bits select
the reserved rows. -/
theorem encIllegalRule : Obligations.EncIllegalRule := by
  unfold Obligations.EncIllegalRule
  refine ⟨fun n w h => decodeEncWord_of_reserved11x n (reserved11x_of_topBits h), fun s n x w hx => ⟨?_, ?_⟩⟩
  · intro hf
    exact exec_encCommand_goes rfl rfl hx hf rfl
  · intro hf
    exact encFaultedIsFrozen _ s n x rfl (by simp) hx hf

/-! ### The stage and occupancy table (R110) -/

section
variable {e : EncState}

theorem encIngestStep_cell (b : Byte) (hf : e.fault = 0#3) (hp : e.phase.toNat ≤ 2) :
    (encIngestStep b e).1.stage = e.stage ∧
    (encIngestStep b e).1.fault = if e.stage ≠ 0#2 then 2#3 else if e.qlen ≠ 0#2 then 1#3 else 0#3 := by
  rcases encIngestStep_cases b e with ⟨hs, h⟩ | ⟨hs, hq, h⟩ | ⟨hs, hq, -, h⟩ | ⟨hs, hq, -, h⟩ | ⟨hs, hq, -, h⟩ |
    ⟨-, -, h3, -⟩
  · simp [h, raiseEnc, hs]
  · simp [h, raiseEnc, hs, hq]
  · simp [h, hs, hq, hf]
  · simp [h, hs, hq, hf]
  · simp [h, hs, hq, hf]
  · simp [h3] at hp

theorem encGetcStep_cell (hf : e.fault = 0#3) :
    (encGetcStep e).1.stage = e.stage ∧ (encGetcStep e).1.fault = if e.qlen = 0#2 then 3#3 else 0#3 := by
  rcases encGetcStep_cases e with ⟨hq, h⟩ | ⟨hq, h⟩
  · simp [h, raiseEnc, hq]
  · simp [h, hq, hf]

theorem encFinishStep_cell (hf : e.fault = 0#3) (hp : e.phase.toNat ≤ 2) :
    (encFinishStep e).1.fault = (if e.stage ≠ 0#2 then 2#3 else if e.qlen ≠ 0#2 then 1#3 else 0#3) ∧
    (encFinishStep e).1.stage = if e.stage = 0#2 ∧ e.qlen = 0#2 then 1#2 else e.stage := by
  rcases encFinishStep_cases e with ⟨hs, h⟩ | ⟨hs, hq, h⟩ | ⟨hs, hq, -, h⟩ | ⟨hs, hq, -, h⟩ | ⟨hs, hq, -, h⟩ |
    ⟨-, -, h3, -⟩
  · simp [h, raiseEnc, hs]
  · simp [h, raiseEnc, hs, hq]
  · simp [h, hs, hq, hf]
  · simp [h, hs, hq, hf]
  · simp [h, hs, hq, hf]
  · simp [h3] at hp

theorem encPadStep_cell (hf : e.fault = 0#3) (hp : e.phase.toNat ≤ 2) :
    (encPadStep e).1.fault = (if e.stage ≠ 1#2 then 2#3 else if e.qlen ≠ 0#2 then 1#3 else 0#3) ∧
    (encPadStep e).1.stage = if e.stage = 1#2 ∧ e.qlen = 0#2 then 2#2 else e.stage := by
  rcases encPadStep_cases e with ⟨hs, h⟩ | ⟨hs, hq, h⟩ | ⟨hs, hq, -, h⟩ | ⟨hs, hq, -, h⟩ | ⟨hs, hq, -, h⟩ |
    ⟨-, -, h3, -⟩
  · simp [h, raiseEnc, hs]
  · simp [h, raiseEnc, hs, hq]
  · simp [h, hs, hq, hf]
  · simp [h, hs, hq, hf]
  · simp [h, hs, hq, hf]
  · simp [h3] at hp

end

/-- Settles O33: the fault and stage after a command are its effect's, row by row of the table. -/
theorem encTransitionTable : Obligations.EncTransitionTable := by
  unfold Obligations.EncTransitionTable
  intro i s t n x y hu h hx hy hp _ _
  have hreg : y.reg = (encEffect i x.reg).1 := by
    rcases exec_enc_after h hx hy with ⟨-, rfl⟩ | ⟨hne, -⟩
    · rfl
    · exact absurd hu hne
  rw [hreg]
  refine ⟨fun hf => ?_, fun hf => ⟨?_, fun hi => by rw [encEffect_of_fault hu hi hf]⟩⟩
  · have hrun (f : EncState → EncState × Response) : unlessFaultedEnc f x.reg = f x.reg :=
      unlessFaultedEnc_of_no_fault f _ hf
    refine ⟨?_, ?_, ?_, ?_, ?_, ?_, ?_⟩
    · rintro rfl
      rw [encEffect, hrun]
      exact ⟨hf, rfl⟩
    · rintro rfl
      exact ⟨rfl, rfl⟩
    · rintro ⟨b, rfl⟩
      rw [encEffect, hrun]
      exact encIngestStep_cell b hf hp
    · rintro rfl
      rw [encEffect, hrun]
      exact encGetcStep_cell hf
    · rintro rfl
      rw [encEffect, hrun]
      exact encFinishStep_cell hf hp
    · rintro rfl
      rw [encEffect, hrun]
      exact encPadStep_cell hf hp
    · rintro ⟨w, rfl⟩
      rw [encEffect, hrun]
      exact ⟨rfl, rfl⟩
  · rintro rfl
    exact ⟨rfl, rfl⟩

end Sys2Proof.Machine

namespace Sys2Proof.Machine

/-! ### The four symbols of a group (R56, R108) -/

section
variable (b0 b1 b2 : Byte)

/-- The low bits of two bytes are the low bits of the second. -/
theorem extractLsb'_low_bits : BitVec.extractLsb' (n := 16) 0 4 (b0 ++ b1) = b1.extractLsb' 0 4 :=
  BitVec.extractLsb'_append_eq_of_add_le (by decide)

theorem group_field0 : BitVec.extractLsb' (n := 24) 18 6 (b0 ++ b1 ++ b2) = srcSym0 b0 := by
  rw [BitVec.extractLsb'_append_eq_of_le (by decide), BitVec.extractLsb'_append_eq_of_le (by decide)]
  exact symPhase0_eq_srcSym0 b0

theorem group_field1 : BitVec.extractLsb' (n := 24) 12 6 (b0 ++ b1 ++ b2) = srcSym1 b0 b1 := by
  rw [BitVec.extractLsb'_append_eq_of_le (by decide), BitVec.extractLsb'_append_eq_ite]
  exact symPhase1_eq_srcSym1 b0 b1

theorem group_field2 : BitVec.extractLsb' (n := 24) 6 6 (b0 ++ b1 ++ b2) = srcSym2 b1 b2 := by
  rw [← symPhase2_eq_srcSym2, symPhase2, BitVec.extractLsb'_append_eq_ite]
  exact congrArg (· ++ b2.extractLsb' 6 2) (extractLsb'_low_bits b0 b1)

theorem group_field3 : BitVec.extractLsb' (n := 24) 0 6 (b0 ++ b1 ++ b2) = srcSym3 b2 := by
  rw [BitVec.extractLsb'_append_eq_of_add_le (by decide)]
  exact symLast_eq_srcSym3 b2

/-- The four symbols are the successive fields of the group, so together they are the group. -/
theorem srcSyms_append :
    (srcSym0 b0 ++ srcSym1 b0 b1 ++ srcSym2 b1 b2 ++ srcSym3 b2 : BitVec 24) = (b0 ++ b1 ++ b2 : BitVec 24) := by
  rw [← group_field0 b0 b1 b2, ← group_field1 b0 b1 b2, ← group_field2 b0 b1 b2, ← group_field3 b0 b1 b2,
    BitVec.extractLsb'_append_extractLsb'_eq_extractLsb' (by decide),
    BitVec.extractLsb'_append_extractLsb'_eq_extractLsb' (by decide),
    BitVec.extractLsb'_append_extractLsb'_eq_extractLsb' (by decide), BitVec.extractLsb'_eq_self]

theorem base64url_group (rest : List Byte) : base64url (b0 :: b1 :: b2 :: rest) =
    [lutEnc (srcSym0 b0), lutEnc (srcSym1 b0 b1), lutEnc (srcSym2 b1 b2), lutEnc (srcSym3 b2)] ++ base64url rest := by
  rw [base64url, group_field0, group_field1, group_field2, group_field3]
  rfl

/-- A partial group of two bytes ends in the symbol that a third byte 0x00 would have completed. -/
theorem base64url_pair :
    base64url [b0, b1] = [lutEnc (srcSym0 b0), lutEnc (srcSym1 b0 b1), lutEnc (srcSym2 b1 0)] := by
  have h0 : BitVec.extractLsb' (n := 18) 12 6 (b0 ++ b1 ++ 0b00#2) = srcSym0 b0 := by
    rw [BitVec.extractLsb'_append_eq_of_le (by decide), BitVec.extractLsb'_append_eq_of_le (by decide)]
    exact symPhase0_eq_srcSym0 b0
  have h1 : BitVec.extractLsb' (n := 18) 6 6 (b0 ++ b1 ++ 0b00#2) = srcSym1 b0 b1 := by
    rw [BitVec.extractLsb'_append_eq_of_le (by decide), BitVec.extractLsb'_append_eq_ite]
    exact symPhase1_eq_srcSym1 b0 b1
  have h2 : BitVec.extractLsb' (n := 18) 0 6 (b0 ++ b1 ++ 0b00#2) = srcSym2 b1 0 := by
    rw [← symFlush2_eq_srcSym2, symFlush2, BitVec.extractLsb'_append_eq_ite]
    exact congrArg (· ++ 0b00#2) (extractLsb'_low_bits b0 b1)
  rw [base64url, h0, h1, h2]

/-- A partial group of one byte ends in the symbol that a second byte 0x00 would have completed. -/
theorem base64url_single : base64url [b0] = [lutEnc (srcSym0 b0), lutEnc (srcSym1 b0 0)] := by
  have h0 : BitVec.extractLsb' (n := 12) 6 6 (b0 ++ 0b0000#4) = srcSym0 b0 := by
    rw [BitVec.extractLsb'_append_eq_of_le (by decide)]
    exact symPhase0_eq_srcSym0 b0
  have h1 : BitVec.extractLsb' (n := 12) 0 6 (b0 ++ 0b0000#4) = srcSym1 b0 0 := by
    rw [BitVec.extractLsb'_append_eq_ite]
    exact symFlush1_eq_srcSym1 b0
  rw [base64url, h0, h1]

end

/-! ### One command of the host (R81, R164) -/

theorem EncOnly.refl {s : State} {n : Nat} {x : EncInstance} (h : s.encs[n]? = some x) : EncOnly s s n x :=
  ⟨h, fun _ _ => rfl, rfl, rfl, rfl, rfl⟩

theorem EncOnly.trans {s t u : State} {n : Nat} {y z : EncInstance} (h₁ : EncOnly s t n y) (h₂ : EncOnly t u n z) :
    EncOnly s u n z := by
  obtain ⟨-, hencs₁, hlen₁, hdecs₁, hmap₁, hin₁⟩ := h₁
  obtain ⟨hz, hencs₂, hlen₂, hdecs₂, hmap₂, hin₂⟩ := h₂
  exact ⟨hz, fun m hm => (hencs₂ m hm).trans (hencs₁ m hm), hlen₂.trans hlen₁, hdecs₂.trans hdecs₁,
    hmap₂.trans hmap₁, hin₂.trans hin₁⟩

/-- The sample presented is the one taken, so issuing an instruction executes it. -/
theorem issue_eq_exec {i : Instr} (hwf : WellFormed i = true) (s : State) : issue i s = nextState? (exec i s) := by
  rw [issue, step_of_input (presentFirst_inputs s _), decodeInput_encodeInput hwf]
  rfl

/-- The host reads the response of a command that completes. -/
theorem issueEnc_of_goes {i : Instr} {s : State} {n : Nat} {e : EncState} {count : BitVec 2} {dout : Byte}
    (hwf : WellFormed i = true) (h : EncGoes i s n e count dout) :
    ∃ t, issueEnc n i s = some (⟨count, dout⟩, t) ∧ EncOnly s t n ⟨e, ⟨count, dout⟩⟩ := by
  obtain ⟨t, hexec, honly⟩ := h
  have hissue : issue i s = some t := by rw [issue_eq_exec hwf, hexec, nextState?]
  refine ⟨t, ?_, honly⟩
  simp [issueEnc, hissue, honly.1]

/-- No command reaches an instance the machine does not have. -/
theorem issueEnc_of_absent {i : Instr} {s : State} {n : Nat} (hwf : WellFormed i = true) (hu : unitOf i = .enc n)
    (h : s.encs.length ≤ n) : issueEnc n i s = none := by
  have hissue : issue i s = none := by
    rw [issue_eq_exec hwf, exec_of_enc hu, encTransaction_of_absent _ h, nextState?]
  simp [issueEnc, hissue]

/-! ### Draining (R81)

Between two commands of a host that drains, all that the encoder's next command depends on is the stage, the phase and
the pending byte. -/

/-- The output queue holds these characters, oldest first (R23). -/
def Queued (e : EncState) : List Byte → Prop
  | [] => e.qlen = 0#2
  | [c] => e.qlen = 1#2 ∧ e.q0 = c
  | [c, d] => e.qlen = 2#2 ∧ e.q0 = c ∧ e.q1 = d
  | _ => False

theorem Queued.qlen_toNat {e : EncState} {cs : List Byte} (h : Queued e cs) : e.qlen.toNat = cs.length := by
  match cs, h with
  | [], h => simp [show e.qlen = 0#2 from h]
  | [c], ⟨h, _⟩ => simp [h]
  | [c, d], ⟨h, _⟩ => simp [h]

/-- GETC takes the oldest character and leaves the others. -/
theorem Queued.head {e : EncState} {c : Byte} {cs : List Byte} (h : Queued e (c :: cs)) :
    e.qlen ≠ 0#2 ∧ e.q0 = c ∧ Queued (deq e) cs := by
  match cs, h with
  | [], ⟨hq, hc⟩ => exact ⟨by simp [hq], hc, by simp [Queued, hq]⟩
  | [d], ⟨hq, hc, hd⟩ => exact ⟨by simp [hq], hc, by simp [Queued, hq, hd]⟩

/-- Where a session stands between two commands. -/
structure SessionPoint where
  stage : BitVec 2
  phase : BitVec 2
  pending : Byte

/-- An encoder without a fault at this point of its session, with these characters still to be drained. -/
structure EncAt (e : EncState) (p : SessionPoint) (queue : List Byte) : Prop where
  fault : e.fault = 0#3
  stage : e.stage = p.stage
  phase : e.phase = p.phase
  pending : e.pending = p.pending
  queued : Queued e queue

/-- A drained encoder's queue is empty. -/
theorem EncAt.qlen {e : EncState} {p : SessionPoint} (h : EncAt e p []) : e.qlen = 0#2 := h.queued

/-- From any state with encoder `n` drained at `p`, `run` collects `out` and leaves it drained at `q`, changing nothing
else. -/
def EncRuns (n : Nat) (p : SessionPoint) (run : State → Option (List Byte × State)) (out : List Byte)
    (q : SessionPoint) : Prop :=
  ∀ (s : State) (x : EncInstance), s.encs[n]? = some x → EncAt x.reg p [] →
    ∃ t y, run s = some (out, t) ∧ EncOnly s t n y ∧ EncAt y.reg q []

/-- As many GETC as there are characters collect them in order. -/
theorem encDrain_of_queued {s : State} {n : Nat} {x : EncInstance} {p : SessionPoint} {cs : List Byte}
    (hx : s.encs[n]? = some x) (h : EncAt x.reg p cs) :
    ∃ t y, encDrain n cs.length s = some (cs, t) ∧ EncOnly s t n y ∧ EncAt y.reg p [] := by
  induction cs generalizing s x with
  | nil => exact ⟨s, x, rfl, EncOnly.refl hx, h⟩
  | cons c cs ih =>
    obtain ⟨hne, hc, hrest⟩ := h.queued.head
    obtain ⟨t, hissue, honly⟩ := issueEnc_of_goes rfl (exec_encGetc_goes hx h.fault hne)
    obtain ⟨u, y, hdrain, honly', hy⟩ := ih honly.1 ⟨h.fault, h.stage, h.phase, h.pending, hrest⟩
    exact ⟨u, y, by simp [encDrain, hissue, hdrain, hc], honly.trans honly', hy⟩

/-- A command that leaves `cs` queued and returns their number: draining it collects `cs`. -/
theorem encIssueDrain_of_goes {i : Instr} {s : State} {n : Nat} {e : EncState} {dout : Byte} {p : SessionPoint}
    {cs : List Byte} (hwf : WellFormed i = true) (hgoes : EncGoes i s n e e.qlen dout) (he : EncAt e p cs) :
    ∃ t y, encIssueDrain n i s = some (cs, t) ∧ EncOnly s t n y ∧ EncAt y.reg p [] := by
  obtain ⟨t, hissue, honly⟩ := issueEnc_of_goes hwf hgoes
  obtain ⟨u, y, hdrain, honly', hy⟩ := encDrain_of_queued honly.1 he
  refine ⟨u, y, ?_, honly.trans honly', hy⟩
  simp [encIssueDrain, hissue, he.queued.qlen_toNat, hdrain]

/-! ### The commands of a session, each drained -/

section
variable (n : Nat) (pending b : Byte)

theorem encRuns_ingest_phase0 :
    EncRuns n ⟨0#2, 0#2, pending⟩ (encIssueDrain n (.encIngest n b)) [lutEnc (srcSym0 b)] ⟨0#2, 1#2, b⟩ := by
  intro s x hx h
  obtain ⟨-, -, haccepted⟩ := encIngestRule.2 s n x b hx h.fault
  obtain ⟨hgoes, -, -⟩ := haccepted h.stage h.qlen
  exact encIssueDrain_of_goes rfl (hgoes h.phase) ⟨h.fault, h.stage, rfl, rfl, rfl, rfl⟩

theorem encRuns_ingest_phase1 :
    EncRuns n ⟨0#2, 1#2, pending⟩ (encIssueDrain n (.encIngest n b)) [lutEnc (srcSym1 pending b)] ⟨0#2, 2#2, b⟩ := by
  intro s x hx h
  obtain ⟨-, -, haccepted⟩ := encIngestRule.2 s n x b hx h.fault
  obtain ⟨-, hgoes, -⟩ := haccepted h.stage h.qlen
  exact encIssueDrain_of_goes rfl (hgoes h.phase) ⟨h.fault, h.stage, rfl, rfl, rfl, by rw [h.pending]⟩

theorem encRuns_ingest_phase2 :
    EncRuns n ⟨0#2, 2#2, pending⟩ (encIssueDrain n (.encIngest n b))
      [lutEnc (srcSym2 pending b), lutEnc (srcSym3 b)] ⟨0#2, 0#2, b⟩ := by
  intro s x hx h
  obtain ⟨-, -, haccepted⟩ := encIngestRule.2 s n x b hx h.fault
  obtain ⟨-, -, hgoes⟩ := haccepted h.stage h.qlen
  exact encIssueDrain_of_goes rfl (hgoes h.phase) ⟨h.fault, h.stage, rfl, rfl, rfl, by rw [h.pending], rfl⟩

theorem encRuns_finish_phase0 :
    EncRuns n ⟨0#2, 0#2, pending⟩ (encIssueDrain n (.encFinish n)) [] ⟨1#2, 0#2, 0x00#8⟩ := by
  intro s x hx h
  obtain ⟨-, -, haccepted⟩ := encFinishRule.2 s n x hx h.fault
  obtain ⟨hgoes, -, -⟩ := haccepted h.stage h.qlen
  have hcount := hgoes h.phase
  rw [← show x.reg.qlen = 0 from h.qlen] at hcount
  exact encIssueDrain_of_goes rfl hcount ⟨h.fault, rfl, h.phase, rfl, h.qlen⟩

theorem encRuns_finish_phase1 :
    EncRuns n ⟨0#2, 1#2, pending⟩ (encIssueDrain n (.encFinish n)) [lutEnc (srcSym1 pending 0)]
      ⟨1#2, 1#2, 0x00#8⟩ := by
  intro s x hx h
  obtain ⟨-, -, haccepted⟩ := encFinishRule.2 s n x hx h.fault
  obtain ⟨-, hgoes, -⟩ := haccepted h.stage h.qlen
  exact encIssueDrain_of_goes rfl (hgoes h.phase) ⟨h.fault, rfl, h.phase, rfl, rfl, by rw [h.pending]⟩

theorem encRuns_finish_phase2 :
    EncRuns n ⟨0#2, 2#2, pending⟩ (encIssueDrain n (.encFinish n)) [lutEnc (srcSym2 pending 0)]
      ⟨1#2, 2#2, 0x00#8⟩ := by
  intro s x hx h
  obtain ⟨-, -, haccepted⟩ := encFinishRule.2 s n x hx h.fault
  obtain ⟨-, -, hgoes⟩ := haccepted h.stage h.qlen
  exact encIssueDrain_of_goes rfl (hgoes h.phase) ⟨h.fault, rfl, h.phase, rfl, rfl, by rw [h.pending]⟩

/-- PAD fills the last group up to four characters (R106). -/
theorem encRuns_pad {phase : BitVec 2} (hphase : phase.toNat ≤ 2) :
    EncRuns n ⟨1#2, phase, pending⟩ (encIssueDrain n (.encPad n))
      (List.replicate ((3 - phase.toNat) % 3) 0x3D#8) ⟨2#2, 0#2, pending⟩ := by
  intro s x hx h
  obtain rfl : x.reg.phase = phase := h.phase
  obtain ⟨-, -, haccepted⟩ := encPadRule.2 s n x hx h.fault
  refine encIssueDrain_of_goes rfl (haccepted h.stage h.qlen hphase) ⟨h.fault, rfl, rfl, h.pending, ?_⟩
  rcases phase_cases x.reg.phase with hp | hp | hp | hp
  · simp [hp, Queued]
  · simp [hp, Queued]
  · simp [hp, Queued]
  · simp [hp] at hphase

end

/-! ### The ingest loop (R108, R170) -/

section
variable {n : Nat} {p q r : SessionPoint} {out o1 o2 : List Byte}

theorem encRuns_feed_nil : EncRuns n p (encFeed n []) [] p :=
  fun s x hx h => ⟨s, x, rfl, EncOnly.refl hx, h⟩

theorem EncRuns.feed_cons {b : Byte} {bs : List Byte} (h1 : EncRuns n p (encIssueDrain n (.encIngest n b)) o1 q)
    (h2 : EncRuns n q (encFeed n bs) o2 r) : EncRuns n p (encFeed n (b :: bs)) (o1 ++ o2) r := by
  intro s x hx h
  obtain ⟨t, y, hrun1, honly1, hy⟩ := h1 s x hx h
  obtain ⟨u, z, hrun2, honly2, hz⟩ := h2 t y honly1.1 hy
  exact ⟨u, z, by simp [encFeed, hrun1, hrun2], honly1.trans honly2, hz⟩

/-- Three bytes from phase 0 give the four characters of their group and lead back to phase 0. -/
theorem EncRuns.feed_group {b0 b1 b2 pending : Byte} {rest : List Byte}
    (h : EncRuns n ⟨0#2, 0#2, b2⟩ (encFeed n rest) out q) :
    EncRuns n ⟨0#2, 0#2, pending⟩ (encFeed n (b0 :: b1 :: b2 :: rest))
      ([lutEnc (srcSym0 b0), lutEnc (srcSym1 b0 b1), lutEnc (srcSym2 b1 b2), lutEnc (srcSym3 b2)] ++ out) q :=
  (encRuns_ingest_phase0 n pending b0).feed_cons
    ((encRuns_ingest_phase1 n b0 b1).feed_cons ((encRuns_ingest_phase2 n b1 b2).feed_cons h))

/-- The ingest loop and FINISH together collect the encoding, group by group; the phase kept is the number of bytes of
the partial group. -/
theorem encRuns_feed_finish (n : Nat) (bytes : List Byte) (pending : Byte) : ∃ q o1 o2,
    EncRuns n ⟨0#2, 0#2, pending⟩ (encFeed n bytes) o1 q ∧
    EncRuns n q (encIssueDrain n (.encFinish n)) o2 ⟨1#2, BitVec.ofNat 2 (bytes.length % 3), 0x00#8⟩ ∧
    o1 ++ o2 = base64url bytes := by
  induction bytes using base64url.induct generalizing pending with
  | case1 b0 b1 b2 rest ih =>
    obtain ⟨q, o1, o2, hfeed, hfinish, hout⟩ := ih b2
    have hlength : (b0 :: b1 :: b2 :: rest).length % 3 = rest.length % 3 := by simp [Nat.add_assoc]
    rw [base64url_group, hlength, ← hout, ← List.append_assoc]
    exact ⟨q, _, o2, hfeed.feed_group, hfinish, rfl⟩
  | case2 b0 b1 =>
    exact ⟨_, _, _, (encRuns_ingest_phase0 n pending b0).feed_cons
      ((encRuns_ingest_phase1 n b0 b1).feed_cons encRuns_feed_nil), encRuns_finish_phase2 n b1,
      (base64url_pair b0 b1).symm⟩
  | case3 b0 =>
    exact ⟨_, _, _, (encRuns_ingest_phase0 n pending b0).feed_cons encRuns_feed_nil, encRuns_finish_phase1 n b0,
      (base64url_single b0).symm⟩
  | case4 => exact ⟨_, _, _, encRuns_feed_nil, encRuns_finish_phase0 n pending, rfl⟩

end

/-- Settles O47: the three ingests of `feed_group` with nothing after them, and the fields of the group. -/
theorem encoderGroupLaw : Obligations.EncoderGroupLaw := by
  unfold Obligations.EncoderGroupLaw
  intro s n x b0 b1 b2 hx hf hs hq hp
  refine ⟨?_, srcSyms_append b0 b1 b2⟩
  have hgroup : EncRuns n ⟨0#2, 0#2, x.reg.pending⟩ (encFeed n [b0, b1, b2]) _ ⟨0#2, 0#2, b2⟩ :=
    encRuns_feed_nil.feed_group
  obtain ⟨t, y, hrun, honly, hy⟩ := hgroup s x hx ⟨hf, hs, hp, rfl, hq⟩
  exact ⟨t, y, hrun, honly.1, hy.phase, hy.qlen, hy.fault, hy.stage⟩

/-! ### ENCODE and ENCODE_PADDED (R109, R170) -/

/-- After RESET an encoder is at the start of a session, whatever its state was. -/
theorem issueEnc_encReset {s : State} {n : Nat} {x : EncInstance} (hx : s.encs[n]? = some x) :
    ∃ r t y, issueEnc n (.encReset n) s = some (r, t) ∧ EncOnly s t n y ∧ EncAt y.reg ⟨0#2, 0#2, 0x00#8⟩ [] := by
  obtain ⟨t, hissue, honly⟩ := issueEnc_of_goes rfl (encResetRule.1 s n x hx)
  exact ⟨_, t, _, hissue, honly, rfl, rfl, rfl, rfl, rfl⟩

theorem runEncode_eq {s : State} {n : Nat} (bytes : List Byte) (hn : n < s.encs.length) :
    ∃ t y, runEncode n bytes s = some (base64url bytes, t) ∧ EncOnly s t n y ∧
      EncAt y.reg ⟨1#2, BitVec.ofNat 2 (bytes.length % 3), 0x00#8⟩ [] := by
  obtain ⟨r, t0, y0, hreset, honly0, hy0⟩ := issueEnc_encReset (List.getElem?_eq_getElem hn)
  obtain ⟨q, o1, o2, hfeed, hfinish, hout⟩ := encRuns_feed_finish n bytes 0x00#8
  obtain ⟨t1, y1, hrun1, honly1, hy1⟩ := hfeed t0 y0 honly0.1 hy0
  obtain ⟨t2, y2, hrun2, honly2, hy2⟩ := hfinish t1 y1 honly1.1 hy1
  exact ⟨t2, y2, by simp [runEncode, hreset, hrun1, hrun2, hout], honly0.trans (honly1.trans honly2), hy2⟩

theorem runEncodePadded_eq {s : State} {n : Nat} (bytes : List Byte) (hn : n < s.encs.length) :
    ∃ t y, runEncodePadded n bytes s = some (base64url bytes ++ List.replicate (padCount bytes.length) 0x3D#8, t) ∧
      EncOnly s t n y ∧ EncAt y.reg ⟨2#2, 0#2, 0x00#8⟩ [] := by
  have hphase : (BitVec.ofNat 2 (bytes.length % 3)).toNat = bytes.length % 3 := by
    rw [BitVec.toNat_ofNat]
    omega
  have hpad := encRuns_pad n 0x00#8 (phase := BitVec.ofNat 2 (bytes.length % 3)) (by omega)
  rw [hphase] at hpad
  obtain ⟨t1, y1, hrun1, honly1, hy1⟩ := runEncode_eq bytes hn
  obtain ⟨t2, y2, hrun2, honly2, hy2⟩ := hpad t1 y1 honly1.1 hy1
  exact ⟨t2, y2, by simp [runEncodePadded, hrun1, hrun2, padCount], honly1.trans honly2, hy2⟩

theorem runEncode_of_absent {s : State} {n : Nat} (bytes : List Byte) (h : s.encs.length ≤ n) :
    runEncode n bytes s = none := by
  rw [runEncode, issueEnc_of_absent rfl rfl h]

theorem runEncodePadded_of_absent {s : State} {n : Nat} (bytes : List Byte) (h : s.encs.length ≤ n) :
    runEncodePadded n bytes s = none := by
  rw [runEncodePadded, runEncode_of_absent bytes h]

/-- `ceil(4n/3)` characters for `n` bytes. -/
theorem length_base64url (bytes : List Byte) : (base64url bytes).length = (4 * bytes.length + 2) / 3 := by
  induction bytes using base64url.induct with
  | case1 b0 b1 b2 rest ih =>
    simp only [base64url, List.length_cons, ih]
    omega
  | case2 b0 b1 => simp [base64url]
  | case3 b0 => simp [base64url]
  | case4 => rfl

/-- Settles O51: on an existing encoder the two procedures collect the encoding, without and with padding, whose
lengths are known; on an absent one they collect nothing. -/
theorem outputLengthsOfEncoding : Obligations.OutputLengthsOfEncoding := by
  unfold Obligations.OutputLengthsOfEncoding
  intro s t n bytes out
  rcases Nat.lt_or_ge n s.encs.length with hn | hn
  · obtain ⟨t1, y1, hrun1, -⟩ := runEncode_eq bytes hn
    obtain ⟨t2, y2, hrun2, -⟩ := runEncodePadded_eq bytes hn
    rw [hrun1, hrun2]
    constructor
    · rintro ⟨⟩
      exact length_base64url bytes
    · rintro ⟨⟩
      rw [List.length_append, List.length_replicate, length_base64url, padCount]
      omega
  · rw [runEncode_of_absent bytes hn, runEncodePadded_of_absent bytes hn]
    exact ⟨nofun, nofun⟩

end Sys2Proof.Machine

namespace Sys2Proof.Machine

/-! ### The words of the decoder's commands (R74, R76) -/

section
variable (n : Nat) {w : CmdWord}

theorem decodeInput_decPort_of_nop (h : opField w = 0#3) : decodeInput (.decPort n false w) = .decNop n := by
  simp [decodeInput, decodeDecWord, h]

theorem decodeInput_decPort_of_reset (h : opField w = 1#3) : decodeInput (.decPort n false w) = .decReset n := by
  simp [decodeInput, decodeDecWord, h]

theorem decodeInput_decPort_of_getc (h : opField w = 3#3) : decodeInput (.decPort n false w) = .decGetc n := by
  simp [decodeInput, decodeDecWord, h]

theorem decodeInput_decPort_of_finish (h : opField w = 4#3) : decodeInput (.decPort n false w) = .decFinish n := by
  simp [decodeInput, decodeDecWord, h]

end

/-! ### The slices of R123 in the source's shift-and-mask form (R111) -/

section
variable (p v : Sym)

theorem bytePhase1_eq_srcByte1 : bytePhase1 p v = srcByte1 p v := by
  ext i hi
  rw [bytePhase1, BitVec.getElem_append]
  interval_cases i <;> simp [srcByte1]

theorem bytePhase2_eq_srcByte2 : bytePhase2 p v = srcByte2 p v := by
  ext i hi
  rw [bytePhase2, BitVec.getElem_append]
  interval_cases i <;> simp [srcByte2]

theorem bytePhase3_eq_srcByte3 : bytePhase3 p v = srcByte3 p v := by
  ext i hi
  rw [bytePhase3, BitVec.getElem_append]
  interval_cases i <;> simp [srcByte3]

end

/-! ### The decoder's commands (R120 to R126) -/

/-- A command other than RESET on a decoder without a fault does what its step function says. -/
theorem exec_decCommand_goes {i : Instr} {n : Nat} {s : State} {x : DecInstance} {f : DecState → DecState × Response}
    {d : DecState} {count : BitVec 2} {dout : Byte} (hu : unitOf i = .dec n) (hi : decEffect i = unlessFaultedDec f)
    (hx : s.decs[n]? = some x) (hf : x.reg.fault = 0#3) (h : f x.reg = (d, ⟨count, dout⟩)) :
    DecGoes i s n d count dout :=
  exec_dec_goes hu hx (by rw [hi, unlessFaultedDec_of_no_fault f _ hf, h])

/-- The freeze (R120 line 2): every command but RESET leaves a faulted decoder as it is. -/
theorem decEffect_of_fault {i : Instr} {n : Nat} {d : DecState} (hu : unitOf i = .dec n) (hi : i ≠ .decReset n)
    (hf : d.fault ≠ 0#3) : decEffect i d = (d, Response.zero) := by
  cases i <;> simp only [unitOf, UnitId.dec.injEq, reduceCtorEq] at hu <;> subst hu
  case decReset => exact absurd rfl hi
  case decNop | decIngest | decGetc | decFinish | decIllegal101 | decIllegal11x =>
    exact unlessFaultedDec_of_fault _ d hf

/-- Settles O32: the freeze is part of every command's effect but RESET's. -/
theorem decFaultedIsFrozen : Obligations.DecFaultedIsFrozen := by
  unfold Obligations.DecFaultedIsFrozen
  intro i s n x hu hi hx hf
  exact exec_dec_goes hu hx (decEffect_of_fault hu hi hf)

/-- Settles O26: NOP's step changes nothing, and op 0 selects it. -/
theorem decNopRule : Obligations.DecNopRule := by
  unfold Obligations.DecNopRule
  exact ⟨fun s n x hx hf => exec_decCommand_goes rfl rfl hx hf rfl, fun n w => decodeInput_decPort_of_nop n⟩

/-- Settles O27: RESET's transaction does not look at the state it clears, and `rst` or op 1 selects it. -/
theorem decResetRule : Obligations.DecResetRule := by
  unfold Obligations.DecResetRule
  exact ⟨fun s n x hx => exec_dec_goes rfl hx rfl, fun n w => ⟨rfl, decodeInput_decPort_of_reset n⟩⟩

@[simp] theorem isAlphabet_lutEnc (v : Sym) : isAlphabet (lutEnc v) = true := by
  rw [isAlphabet, lutDec_lutEnc]

/-- A character that is neither an entry of ENC_ROM nor `=` is outside the 65-symbol set (R55). -/
theorem inCodeSet_of_foreign {c : Byte} (halpha : ∀ v : Sym, lutEnc v ≠ c) (hpad : c ≠ padChar) :
    inCodeSet c = false := by
  have hvalid : isAlphabet c = false := by
    rw [isAlphabet, Bool.eq_false_iff, ne_eq, lutDec_valid_iff_exists_lutEnc]
    exact fun ⟨v, hv⟩ => halpha v hv
  simp [inCodeSet, hvalid, hpad]

/-- The phase wraps around after four characters (R112 (b)). -/
theorem phase_add_one (p : BitVec 2) : p + 1#2 = BitVec.ofNat 2 ((p.toNat + 1) % 4) := by
  revert p
  decide

/-! ### The branches of DEC.INGEST (R123)

Each from the case list, of which its conditions leave one case. -/

section
variable {d : DecState}

theorem decIngestStep_of_stage (c : Byte) (hs : d.stage ≠ 0#1) : decIngestStep c d = raiseDec 2#3 d := by
  simpa [hs] using decIngestStep_cases c d

theorem decIngestStep_of_full (c : Byte) (hs : d.stage = 0#1) (hv : d.slotValid = true) :
    decIngestStep c d = raiseDec 1#3 d := by
  simpa [hs, hv] using decIngestStep_cases c d

variable (hs : d.stage = 0#1) (hv : d.slotValid = false) (v : Sym)
include hs hv

theorem decIngestStep_of_foreign {c : Byte} (hc : inCodeSet c = false) : decIngestStep c d = raiseDec 4#3 d := by
  obtain ⟨halpha, hpad⟩ : isAlphabet c = false ∧ c ≠ padChar := by simpa [inCodeSet] using hc
  simpa [hs, hv, hc, halpha, hpad] using decIngestStep_cases c d

theorem decIngestStep_padChar :
    decIngestStep padChar d = ({ d with phase := d.phase + 1#2, paddingSeen := true }, ⟨0#2, 0#8⟩) := by
  simpa [hs, hv, isAlphabet_padChar, inCodeSet_padChar] using decIngestStep_cases padChar d

theorem decIngestStep_lutEnc_after_padding (hp : d.paddingSeen = true) :
    decIngestStep (lutEnc v) d = ({ d with phase := d.phase + 1#2 }, ⟨0#2, 0#8⟩) := by
  simpa [hs, hv, hp] using decIngestStep_cases (lutEnc v) d

variable (hp : d.paddingSeen = false)
include hp

theorem decIngestStep_lutEnc_phase0 (hph : d.phase = 0#2) :
    decIngestStep (lutEnc v) d = ({ d with phase := 1#2, pendingBits := v }, ⟨0#2, 0#8⟩) := by
  simpa [hs, hv, hp, hph] using decIngestStep_cases (lutEnc v) d

theorem decIngestStep_lutEnc_phase1 (hph : d.phase = 1#2) :
    decIngestStep (lutEnc v) d = ({ d with phase := 2#2, pendingBits := v, slotValid := true,
                                           slot := srcByte1 d.pendingBits v }, ⟨1#2, 0#8⟩) := by
  simpa [hs, hv, hp, hph, bytePhase1_eq_srcByte1] using decIngestStep_cases (lutEnc v) d

theorem decIngestStep_lutEnc_phase2 (hph : d.phase = 2#2) :
    decIngestStep (lutEnc v) d = ({ d with phase := 3#2, pendingBits := v, slotValid := true,
                                           slot := srcByte2 d.pendingBits v }, ⟨1#2, 0#8⟩) := by
  simpa [hs, hv, hp, hph, bytePhase2_eq_srcByte2] using decIngestStep_cases (lutEnc v) d

theorem decIngestStep_lutEnc_phase3 (hph : d.phase = 3#2) :
    decIngestStep (lutEnc v) d = ({ d with phase := 0#2, pendingBits := v, slotValid := true,
                                           slot := srcByte3 d.pendingBits v }, ⟨1#2, 0#8⟩) := by
  simpa [hs, hv, hp, hph, bytePhase3_eq_srcByte3] using decIngestStep_cases (lutEnc v) d

end

/-- Settles O28: each clause is one branch of INGEST's step. -/
theorem decIngestRule : Obligations.DecIngestRule := by
  unfold Obligations.DecIngestRule
  refine ⟨fun n c => by rw [ingestWord_eq_cmdWord]; exact decodeInput_encodeInput (i := .decIngest n c) rfl, ?_⟩
  intro s n x c hx hf
  have hgo {d count dout} (h : decIngestStep c x.reg = (d, ⟨count, dout⟩)) :
      DecGoes (.decIngest n c) s n d count dout := exec_decCommand_goes rfl rfl hx hf h
  refine ⟨fun hs => hgo (decIngestStep_of_stage c hs), fun hs hv => hgo (decIngestStep_of_full c hs hv), ?_⟩
  intro hs hv
  refine ⟨fun halpha hpad => hgo (decIngestStep_of_foreign hs hv (inCodeSet_of_foreign halpha hpad)), ?_, ?_⟩
  · rintro rfl
    rw [← phase_add_one]
    exact hgo (decIngestStep_padChar hs hv)
  · rintro v rfl
    rw [← phase_add_one]
    exact ⟨fun hp => hgo (decIngestStep_lutEnc_after_padding hs hv v hp), fun hp =>
      ⟨fun hph => hgo (decIngestStep_lutEnc_phase0 hs hv v hp hph),
        fun hph => hgo (decIngestStep_lutEnc_phase1 hs hv v hp hph),
        fun hph => hgo (decIngestStep_lutEnc_phase2 hs hv v hp hph),
        fun hph => hgo (decIngestStep_lutEnc_phase3 hs hv v hp hph)⟩⟩

/-- GETC on a full slot takes its byte (R124). -/
theorem exec_decGetc_goes {s : State} {n : Nat} {x : DecInstance} (hx : s.decs[n]? = some x)
    (hf : x.reg.fault = 0#3) (hv : x.reg.slotValid = true) :
    DecGoes (.decGetc n) s n (emptySlot x.reg) 0#2 x.reg.slot := by
  rcases decGetcStep_cases x.reg with ⟨hv', -⟩ | ⟨-, h⟩
  · exact absurd hv (by simp [hv'])
  · exact exec_decCommand_goes rfl rfl hx hf h

/-- Settles O29: GETC on an empty slot raises, on a full one it is `emptySlot`. -/
theorem decGetcRule : Obligations.DecGetcRule := by
  unfold Obligations.DecGetcRule
  refine ⟨fun n w => decodeInput_decPort_of_getc n, fun s n x hx hf => ⟨fun hv => ?_, exec_decGetc_goes hx hf⟩⟩
  rcases decGetcStep_cases x.reg with ⟨-, h⟩ | ⟨hv', -⟩
  · exact exec_decCommand_goes rfl rfl hx hf h
  · exact absurd hv' (by simp [hv])

/-- Settles O30: the two cases of FINISH's step; `slotCount` is 1 exactly for a full slot. -/
theorem decFinishRule : Obligations.DecFinishRule := by
  unfold Obligations.DecFinishRule
  refine ⟨fun n w => decodeInput_decPort_of_finish n, fun s n x hx hf => ?_⟩
  rcases decFinishStep_cases x.reg with ⟨hs, h⟩ | ⟨hs, h⟩
  · exact ⟨fun _ => exec_decCommand_goes rfl rfl hx hf h, fun hs' => absurd hs' hs⟩
  · exact ⟨fun hs' => absurd hs hs', fun _ => exec_decCommand_goes rfl rfl hx hf h⟩

/-- Settles O31: the step of a reserved word raises code 5, the freeze comes before it, and the top bits select the
two reserved rows. -/
theorem decIllegalRule : Obligations.DecIllegalRule := by
  unfold Obligations.DecIllegalRule
  refine ⟨fun n w => ⟨fun h => decodeDecWord_of_reserved101 n ((reserved101_iff w).2 h),
    fun h => decodeDecWord_of_reserved11x n (reserved11x_of_topBits h)⟩, fun s n x w hx => ⟨?_, ?_⟩⟩
  · intro hf
    exact ⟨exec_decCommand_goes rfl rfl hx hf rfl, exec_decCommand_goes rfl rfl hx hf rfl⟩
  · intro hf
    exact ⟨decFaultedIsFrozen _ s n x rfl (by simp) hx hf, decFaultedIsFrozen _ s n x rfl (by simp) hx hf⟩

end Sys2Proof.Machine

namespace Sys2Proof.Machine

/-! ### The three bytes of a group (R56, R127) -/

section
variable (v0 v1 v2 v3 : Sym)

theorem symGroup_field1 : BitVec.extractLsb' (n := 24) 16 8 (v0 ++ v1 ++ v2 ++ v3) = srcByte1 v0 v1 := by
  rw [← bytePhase1_eq_srcByte1, bytePhase1, BitVec.extractLsb'_append_eq_of_le (by decide),
    BitVec.extractLsb'_append_eq_of_le (by decide), BitVec.extractLsb'_append_eq_ite]
  exact congrArg (· ++ v1.extractLsb' 4 2) BitVec.extractLsb'_eq_self

theorem symGroup_field2 : BitVec.extractLsb' (n := 24) 8 8 (v0 ++ v1 ++ v2 ++ v3) = srcByte2 v1 v2 := by
  have hlow : BitVec.extractLsb' (n := 12) 0 4 (v0 ++ v1) = v1.extractLsb' 0 4 :=
    BitVec.extractLsb'_append_eq_of_add_le (by decide)
  rw [← bytePhase2_eq_srcByte2, bytePhase2, BitVec.extractLsb'_append_eq_of_le (by decide),
    BitVec.extractLsb'_append_eq_ite]
  exact congrArg (· ++ v2.extractLsb' 2 4) hlow

theorem symGroup_field3 : BitVec.extractLsb' (n := 24) 0 8 (v0 ++ v1 ++ v2 ++ v3) = srcByte3 v2 v3 := by
  have hlow : BitVec.extractLsb' (n := 18) 0 2 (v0 ++ v1 ++ v2) = v2.extractLsb' 0 2 :=
    BitVec.extractLsb'_append_eq_of_add_le (by decide)
  rw [← bytePhase3_eq_srcByte3, bytePhase3, BitVec.extractLsb'_append_eq_ite]
  exact congrArg₂ (· ++ ·) hlow BitVec.extractLsb'_eq_self

/-- The three bytes are the successive fields of the group, so together they are the group. -/
theorem srcBytes_append :
    (srcByte1 v0 v1 ++ srcByte2 v1 v2 ++ srcByte3 v2 v3 : BitVec 24) = (v0 ++ v1 ++ v2 ++ v3 : BitVec 24) := by
  rw [← symGroup_field1 v0 v1 v2 v3, ← symGroup_field2 v0 v1 v2 v3, ← symGroup_field3 v0 v1 v2 v3,
    BitVec.extractLsb'_append_extractLsb'_eq_extractLsb' (by decide),
    BitVec.extractLsb'_append_extractLsb'_eq_extractLsb' (by decide), BitVec.extractLsb'_eq_self]

end

/-! The decoder's bytes of the encoder's symbols: both are the fields of the same 24 bits (R129). -/

section
variable (b0 b1 b2 : Byte)

theorem srcByte1_srcSyms : srcByte1 (srcSym0 b0) (srcSym1 b0 b1) = b0 := by
  rw [← symGroup_field1 _ _ (srcSym2 b1 0) (srcSym3 0), srcSyms_append,
    BitVec.extractLsb'_append_eq_of_le (by decide), BitVec.extractLsb'_append_eq_of_le (by decide)]
  exact BitVec.extractLsb'_eq_self

theorem srcByte2_srcSyms : srcByte2 (srcSym1 b0 b1) (srcSym2 b1 b2) = b1 := by
  rw [← symGroup_field2 (srcSym0 b0) _ _ (srcSym3 b2), srcSyms_append,
    BitVec.extractLsb'_append_eq_of_le (by decide)]
  exact BitVec.extractLsb'_append_eq_right

theorem srcByte3_srcSyms : srcByte3 (srcSym2 b1 b2) (srcSym3 b2) = b2 := by
  rw [← symGroup_field3 (srcSym0 0) (srcSym1 0 b1), srcSyms_append]
  exact BitVec.extractLsb'_append_eq_right

end

/-! ### One command of the host (R81, R164) -/

theorem DecOnly.refl {s : State} {n : Nat} {x : DecInstance} (h : s.decs[n]? = some x) : DecOnly s s n x :=
  ⟨h, fun _ _ => rfl, rfl, rfl, rfl, rfl⟩

theorem DecOnly.trans {s t u : State} {n : Nat} {y z : DecInstance} (h₁ : DecOnly s t n y) (h₂ : DecOnly t u n z) :
    DecOnly s u n z := by
  obtain ⟨-, hdecs₁, hlen₁, hencs₁, hmap₁, hin₁⟩ := h₁
  obtain ⟨hz, hdecs₂, hlen₂, hencs₂, hmap₂, hin₂⟩ := h₂
  exact ⟨hz, fun m hm => (hdecs₂ m hm).trans (hdecs₁ m hm), hlen₂.trans hlen₁, hencs₂.trans hencs₁,
    hmap₂.trans hmap₁, hin₂.trans hin₁⟩

/-- The host reads the response and the fault pin of a command that completes. -/
theorem issueDec_of_goes {i : Instr} {s : State} {n : Nat} {d : DecState} {count : BitVec 2} {dout : Byte}
    (hwf : WellFormed i = true) (h : DecGoes i s n d count dout) :
    ∃ t, issueDec n i s = some (⟨count, dout⟩, d.fault, t) ∧ DecOnly s t n ⟨d, ⟨count, dout⟩⟩ := by
  obtain ⟨t, hexec, honly⟩ := h
  have hissue : issue i s = some t := by rw [issue_eq_exec hwf, hexec, nextState?]
  refine ⟨t, ?_, honly⟩
  simp [issueDec, hissue, honly.1]

/-- The response of a decoder command is that of its effect, accepted or not. -/
theorem issueDec_of_instance {i : Instr} {s : State} {n : Nat} {x : DecInstance} (hwf : WellFormed i = true)
    (hu : unitOf i = .dec n) (hx : s.decs[n]? = some x) :
    ∃ t, issueDec n i s = some ((decEffect i x.reg).2, (decEffect i x.reg).1.fault, t) := by
  have hgoes : DecGoes i s n (decEffect i x.reg).1 (decEffect i x.reg).2.count (decEffect i x.reg).2.dout :=
    exec_dec_goes hu hx rfl
  obtain ⟨t, hissue, -⟩ := issueDec_of_goes hwf hgoes
  exact ⟨t, hissue⟩

/-- Whatever state the instance is in, an INGEST returns no byte, or one byte at another phase than 0. -/
theorem decEffect_decIngest_count (n : Nat) (c : Byte) (d : DecState) :
    (decEffect (.decIngest n c) d).2.count = 0#2 ∨ ((decEffect (.decIngest n c) d).2.count = 1#2 ∧ d.phase ≠ 0#2) := by
  rw [decEffect]
  by_cases hf : d.fault = 0#3
  · rw [unlessFaultedDec_of_no_fault _ d hf]
    rcases decIngestStep_cases c d with ⟨-, h⟩ | ⟨-, -, h⟩ | ⟨-, -, -, h⟩ | ⟨-, -, -, h⟩ | ⟨-, -, -, -, h⟩ |
      ⟨-, -, -, -, -, h⟩ | ⟨-, -, -, -, hp, h⟩ | ⟨-, -, -, -, hp, h⟩ | ⟨-, -, -, -, hp, h⟩ <;> rw [h]
    · exact .inl rfl
    · exact .inl rfl
    · exact .inl rfl
    · exact .inl rfl
    · exact .inl rfl
    · exact .inl rfl
    · exact .inr ⟨rfl, by simp [hp]⟩
    · exact .inr ⟨rfl, by simp [hp]⟩
    · exact .inr ⟨rfl, by simp [hp]⟩
  · rw [unlessFaultedDec_of_fault _ d hf]
    exact .inl rfl

/-! ### The characters of a session (R55) -/

theorem exists_lutEnc_of_isAlphabet {c : Byte} (h : isAlphabet c = true) : ∃ v, c = lutEnc v := by
  obtain ⟨v, hv⟩ := (lutDec_valid_iff_exists_lutEnc c).1 h
  exact ⟨v, hv.symm⟩

theorem inCodeSet_of_isAlphabet {c : Byte} (h : isAlphabet c = true) : inCodeSet c = true := by
  simp [inCodeSet, h]

theorem isAlphabet_of_mem_base64url (bytes : List Byte) : ∀ c ∈ base64url bytes, isAlphabet c = true := by
  induction bytes using base64url.induct with
  | case1 b0 b1 b2 rest ih => simpa [base64url] using ih
  | case2 b0 b1 => simp [base64url]
  | case3 b0 => simp [base64url]
  | case4 => simp [base64url]

/-! ### A decoding session as a function (R123, R128)

Between two commands of a host that drains, all that the decoder's next command depends on is the phase, the pending
bits and the padding flag. -/

/-- Where an active session stands between two commands. -/
structure DecPoint where
  phase : BitVec 2
  pendingBits : Sym
  paddingSeen : Bool

/-- The start of a session (R122). -/
def DecPoint.start : DecPoint := ⟨0#2, 0#6, false⟩

/-- The byte a symbol completes at a phase, none at phase 0 (R123). -/
def completedByte (phase : BitVec 2) (pending v : Sym) : List Byte :=
  if phase = 0#2 then []
  else if phase = 1#2 then [srcByte1 pending v]
  else if phase = 2#2 then [srcByte2 pending v]
  else [srcByte3 pending v]

/-- The bytes a character of the 65-symbol set produces: none if it is `=` or follows one. -/
def DecPoint.bytes (p : DecPoint) (c : Byte) : List Byte :=
  if c = padChar ∨ p.paddingSeen = true then [] else completedByte p.phase p.pendingBits (lutDec c).sym

/-- Where the session stands after a character of the 65-symbol set. -/
def DecPoint.next (p : DecPoint) (c : Byte) : DecPoint :=
  if c = padChar then { p with phase := p.phase + 1#2, paddingSeen := true }
  else if p.paddingSeen = true then { p with phase := p.phase + 1#2 }
  else { p with phase := p.phase + 1#2, pendingBits := (lutDec c).sym }

/-- The bytes that characters of the 65-symbol set produce. -/
def DecPoint.decoded : DecPoint → List Byte → List Byte
  | _, [] => []
  | p, c :: cs => p.bytes c ++ (p.next c).decoded cs

theorem length_completedByte (phase : BitVec 2) (pending v : Sym) :
    (completedByte phase pending v).length = min phase.toNat 1 := by
  rcases phase_cases phase with h | h | h | h <;> simp [h, completedByte]

section
variable {p : DecPoint} (c : Byte) (v : Sym)

@[simp] theorem DecPoint.bytes_padChar (p : DecPoint) : p.bytes padChar = [] := if_pos (.inl rfl)

@[simp] theorem DecPoint.next_padChar (p : DecPoint) :
    p.next padChar = { p with phase := p.phase + 1#2, paddingSeen := true } :=
  if_pos rfl

theorem DecPoint.bytes_of_paddingSeen (hp : p.paddingSeen = true) : p.bytes c = [] :=
  if_pos (.inr hp)

theorem DecPoint.next_paddingSeen (hp : p.paddingSeen = true) : (p.next c).paddingSeen = true := by
  by_cases hc : c = padChar <;> simp [DecPoint.next, hc, hp]

theorem DecPoint.next_lutEnc_of_paddingSeen (hp : p.paddingSeen = true) :
    p.next (lutEnc v) = { p with phase := p.phase + 1#2 } := by
  simp [DecPoint.next, hp]

theorem DecPoint.bytes_lutEnc (hp : p.paddingSeen = false) :
    p.bytes (lutEnc v) = completedByte p.phase p.pendingBits v := by
  simp [DecPoint.bytes, hp]

theorem DecPoint.next_lutEnc (hp : p.paddingSeen = false) :
    p.next (lutEnc v) = { p with phase := p.phase + 1#2, pendingBits := v } := by
  simp [DecPoint.next, hp]

end

/-- After `=` nothing is produced. -/
theorem DecPoint.decoded_of_paddingSeen {p : DecPoint} (cs : List Byte) (hp : p.paddingSeen = true) :
    p.decoded cs = [] := by
  induction cs generalizing p with
  | nil => rfl
  | cons c cs ih => rw [DecPoint.decoded, bytes_of_paddingSeen c hp, ih (next_paddingSeen c hp), List.nil_append]

/-- `=` and what follows it produce nothing. -/
theorem DecPoint.decoded_append_padChar (p : DecPoint) (cs rest : List Byte) :
    p.decoded (cs ++ padChar :: rest) = p.decoded cs := by
  induction cs generalizing p with
  | nil => simp [decoded, decoded_of_paddingSeen]
  | cons c cs ih => simp [decoded, ih]

/-- One byte per alphabet character, but none at phase 0: the second term on either side counts the groups begun. -/
theorem DecPoint.length_decoded {p : DecPoint} {cs : List Byte} (hp : p.paddingSeen = false)
    (h : ∀ c ∈ cs, isAlphabet c = true) :
    (p.decoded cs).length + (p.phase.toNat + cs.length + 3) / 4 = cs.length + (p.phase.toNat + 3) / 4 := by
  induction cs generalizing p with
  | nil => simp [decoded]
  | cons c cs ih =>
    obtain ⟨hc, hcs⟩ := List.forall_mem_cons.1 h
    obtain ⟨v, rfl⟩ := exists_lutEnc_of_isAlphabet hc
    have hrest := ih (p := p.next (lutEnc v)) (by rw [next_lutEnc v hp, hp]) hcs
    have hphase : (p.next (lutEnc v)).phase.toNat = (p.phase.toNat + 1) % 4 := by
      rw [next_lutEnc v hp, BitVec.toNat_add]
      rfl
    rw [hphase] at hrest
    rw [decoded, List.length_append, bytes_lutEnc v hp, length_completedByte, List.length_cons]
    omega

/-- A group of four characters from phase 0 gives three bytes and leads back to phase 0 (R127). -/
theorem DecPoint.decoded_group (pending v0 v1 v2 v3 : Sym) (cs : List Byte) :
    DecPoint.decoded ⟨0#2, pending, false⟩ (lutEnc v0 :: lutEnc v1 :: lutEnc v2 :: lutEnc v3 :: cs) =
      [srcByte1 v0 v1, srcByte2 v1 v2, srcByte3 v2 v3] ++ DecPoint.decoded ⟨0#2, v3, false⟩ cs := by
  simp [decoded, bytes_lutEnc, next_lutEnc, completedByte]

/-- Decoding the encoding gives the bytes encoded, group by group. -/
theorem DecPoint.decoded_base64url (bytes : List Byte) (pending : Sym) :
    DecPoint.decoded ⟨0#2, pending, false⟩ (base64url bytes) = bytes := by
  induction bytes using base64url.induct generalizing pending with
  | case1 b0 b1 b2 rest ih =>
    rw [base64url_group]
    simp only [List.cons_append, List.nil_append]
    rw [decoded_group, ih, srcByte1_srcSyms, srcByte2_srcSyms, srcByte3_srcSyms]
    rfl
  | case2 b0 b1 =>
    simp [base64url_pair, decoded, bytes_lutEnc, next_lutEnc, completedByte, srcByte1_srcSyms, srcByte2_srcSyms]
  | case3 b0 => simp [base64url_single, decoded, bytes_lutEnc, next_lutEnc, completedByte, srcByte1_srcSyms]
  | case4 => rfl

/-! ### The session run by the machine (R170) -/

/-- The slot holds these bytes (R31). -/
def Held (d : DecState) : List Byte → Prop
  | [] => d.slotValid = false
  | [b] => d.slotValid = true ∧ d.slot = b
  | _ => False

/-- A decoder without a fault at this point of an active session, with these bytes still to be drained. -/
structure DecAt (d : DecState) (p : DecPoint) (held : List Byte) : Prop where
  fault : d.fault = 0#3
  stage : d.stage = 0#1
  phase : d.phase = p.phase
  pendingBits : d.pendingBits = p.pendingBits
  paddingSeen : d.paddingSeen = p.paddingSeen
  held : Held d held

/-- A drained decoder's slot is empty. -/
theorem DecAt.slotValid {d : DecState} {p : DecPoint} (h : DecAt d p []) : d.slotValid = false := h.held

/-- INGEST of a character of the 65-symbol set does what `bytes` and `next` say, and returns the number of bytes. -/
theorem decIngestStep_of_codeSet {d : DecState} {p : DecPoint} {c : Byte} (h : DecAt d p [])
    (hc : inCodeSet c = true) :
    ∃ d', decIngestStep c d = (d', ⟨BitVec.ofNat 2 (p.bytes c).length, 0#8⟩) ∧
      DecAt d' (p.next c) (p.bytes c) := by
  obtain ⟨hf, hs, hph, hpend, hpad, hv⟩ := h
  obtain rfl | halpha : c = padChar ∨ isAlphabet c = true := by simpa [inCodeSet, or_comm] using hc
  · rw [DecPoint.bytes_padChar, DecPoint.next_padChar, ← hph]
    exact ⟨_, decIngestStep_padChar hs hv, hf, hs, rfl, hpend, rfl, hv⟩
  obtain ⟨v, rfl⟩ := exists_lutEnc_of_isAlphabet halpha
  cases hseen : p.paddingSeen with
  | true =>
    rw [DecPoint.bytes_of_paddingSeen _ hseen, DecPoint.next_lutEnc_of_paddingSeen v hseen, ← hph]
    exact ⟨_, decIngestStep_lutEnc_after_padding hs hv v (hpad.trans hseen), hf, hs, rfl, hpend, hpad, hv⟩
  | false =>
    rw [DecPoint.bytes_lutEnc v hseen, DecPoint.next_lutEnc v hseen, ← hph, ← hpend]
    rcases phase_cases d.phase with h | h | h | h <;> rw [h]
    · exact ⟨_, decIngestStep_lutEnc_phase0 hs hv v (hpad.trans hseen) h, hf, hs, rfl, rfl, hpad, hv⟩
    · exact ⟨_, decIngestStep_lutEnc_phase1 hs hv v (hpad.trans hseen) h, hf, hs, rfl, rfl, hpad, rfl, rfl⟩
    · exact ⟨_, decIngestStep_lutEnc_phase2 hs hv v (hpad.trans hseen) h, hf, hs, rfl, rfl, hpad, rfl, rfl⟩
    · exact ⟨_, decIngestStep_lutEnc_phase3 hs hv v (hpad.trans hseen) h, hf, hs, rfl, rfl, hpad, rfl, rfl⟩

section
variable {s : State} {n : Nat} {x : DecInstance} {p : DecPoint}

theorem issueDec_decIngest {c : Byte} (hx : s.decs[n]? = some x) (h : DecAt x.reg p []) (hc : inCodeSet c = true) :
    ∃ t y, issueDec n (.decIngest n c) s = some (⟨BitVec.ofNat 2 (p.bytes c).length, 0#8⟩, 0#3, t) ∧
      DecOnly s t n y ∧ DecAt y.reg (p.next c) (p.bytes c) := by
  obtain ⟨d, hstep, hd⟩ := decIngestStep_of_codeSet h hc
  have hgoes : DecGoes (.decIngest n c) s n d _ _ := exec_decCommand_goes rfl rfl hx h.fault hstep
  obtain ⟨t, hissue, honly⟩ := issueDec_of_goes rfl hgoes
  rw [hd.fault] at hissue
  exact ⟨t, _, hissue, honly, hd⟩

theorem issueDec_decIngest_lutEnc {phase : BitVec 2} {pending : Sym} (v : Sym) (hx : s.decs[n]? = some x)
    (h : DecAt x.reg ⟨phase, pending, false⟩ []) :
    ∃ t y, issueDec n (.decIngest n (lutEnc v)) s =
        some (⟨BitVec.ofNat 2 (completedByte phase pending v).length, 0#8⟩, 0#3, t) ∧
      DecOnly s t n y ∧ DecAt y.reg ⟨phase + 1#2, v, false⟩ (completedByte phase pending v) := by
  have hissue := issueDec_decIngest hx h (inCodeSet_lutEnc v)
  rwa [DecPoint.bytes_lutEnc v rfl, DecPoint.next_lutEnc v rfl] at hissue

theorem issueDec_decGetc {b : Byte} (hx : s.decs[n]? = some x) (h : DecAt x.reg p [b]) :
    ∃ t y, issueDec n (.decGetc n) s = some (⟨0#2, b⟩, 0#3, t) ∧ DecOnly s t n y ∧ DecAt y.reg p [] := by
  obtain ⟨hf, hs, hph, hpend, hpad, hv, rfl⟩ := h
  obtain ⟨t, hissue, honly⟩ := issueDec_of_goes rfl (exec_decGetc_goes hx hf hv)
  rw [emptySlot_fault, hf] at hissue
  exact ⟨t, _, hissue, honly, hf, hs, hph, hpend, hpad, rfl⟩

/-- As many GETC as the returned count says collect what the slot holds. -/
theorem decDrain_of_held {bs : List Byte} (hx : s.decs[n]? = some x) (h : DecAt x.reg p bs) :
    ∃ t y, decDrain n (BitVec.ofNat 2 bs.length).toNat s = some (bs, t) ∧ DecOnly s t n y ∧ DecAt y.reg p [] := by
  match bs, h with
  | [], h => exact ⟨s, x, rfl, DecOnly.refl hx, h⟩
  | [b], h =>
    obtain ⟨t, y, hissue, honly, hy⟩ := issueDec_decGetc hx h
    exact ⟨t, y, by simp [decDrain, hissue], honly, hy⟩
  | _ :: _ :: _, h => exact h.held.elim

/-- The ingest loop on characters of the 65-symbol set collects what they produce. -/
theorem decFeed_of_codeSet {cs : List Byte} (hx : s.decs[n]? = some x) (h : DecAt x.reg p [])
    (hcs : ∀ c ∈ cs, inCodeSet c = true) :
    ∃ t y q, decFeed n cs s = .done (p.decoded cs) t ∧ DecOnly s t n y ∧ DecAt y.reg q [] := by
  induction cs generalizing s x p with
  | nil => exact ⟨s, x, p, rfl, DecOnly.refl hx, h⟩
  | cons c cs ih =>
    obtain ⟨hc, hrest⟩ := List.forall_mem_cons.1 hcs
    obtain ⟨t1, y1, hissue, honly1, hy1⟩ := issueDec_decIngest hx h hc
    obtain ⟨t2, y2, hdrain, honly2, hy2⟩ := decDrain_of_held honly1.1 hy1
    obtain ⟨t3, y3, q, hfeed, honly3, hy3⟩ := ih honly2.1 hy2 hrest
    refine ⟨t3, y3, q, ?_, honly1.trans (honly2.trans honly3), hy3⟩
    simp only [decFeed, hissue, hdrain, hfeed, DecPoint.decoded, ne_eq, not_true_eq_false, if_false]

/-- After RESET a decoder is at the start of a session, whatever its state was. -/
theorem issueDec_decReset (hx : s.decs[n]? = some x) :
    ∃ r f t y, issueDec n (.decReset n) s = some (r, f, t) ∧ DecOnly s t n y ∧ DecAt y.reg .start [] := by
  obtain ⟨t, hissue, honly⟩ := issueDec_of_goes rfl (decResetRule.1 s n x hx)
  exact ⟨_, _, t, _, hissue, honly, rfl, rfl, rfl, rfl, rfl, rfl⟩

/-- FINISH on a drained decoder returns no byte and ends the session (R171). -/
theorem issueDec_decFinish (hx : s.decs[n]? = some x) (h : DecAt x.reg p []) :
    ∃ t y, issueDec n (.decFinish n) s = some (⟨0#2, 0#8⟩, 0#3, t) ∧ DecOnly s t n y ∧ decSessionEnded y.reg := by
  obtain ⟨-, hgoes⟩ := decFinishRule.2 s n x hx h.fault
  obtain ⟨t, hissue, honly⟩ := issueDec_of_goes rfl (hgoes h.stage)
  rw [h.slotValid, h.fault] at hissue
  exact ⟨t, _, hissue, honly, h.fault, h.slotValid, rfl⟩

/-- DECODE of characters of the 65-symbol set, from any state of the instance. -/
theorem runDecode_of_codeSet {cs : List Byte} (hn : n < s.decs.length) (hcs : ∀ c ∈ cs, inCodeSet c = true) :
    ∃ t y, runDecode n cs s = .done (DecPoint.start.decoded cs) t ∧ DecOnly s t n y ∧ decSessionEnded y.reg := by
  obtain ⟨r, f, t0, y0, hreset, honly0, hy0⟩ := issueDec_decReset (List.getElem?_eq_getElem hn)
  obtain ⟨t1, y1, q, hfeed, honly1, hy1⟩ := decFeed_of_codeSet honly0.1 hy0 hcs
  obtain ⟨t2, y2, hfinish, honly2, hy2⟩ := issueDec_decFinish honly1.1 hy1
  exact ⟨t2, y2, by simp [runDecode, hreset, hfeed, hfinish, decDrain], honly0.trans (honly1.trans honly2), hy2⟩

end

/-- Settles O48: the count of every case of INGEST, the session of four characters command by command, and the fields
of the group. -/
theorem decoderGroupLaw : Obligations.DecoderGroupLaw := by
  unfold Obligations.DecoderGroupLaw
  refine ⟨?_, ?_, srcBytes_append⟩
  · intro s t n x c r f hx hissue
    obtain ⟨u, hissue'⟩ := issueDec_of_instance (i := .decIngest n c) rfl rfl hx
    rw [hissue'] at hissue
    cases hissue
    rcases decEffect_decIngest_count n c x.reg with h | ⟨h, hp⟩
    · exact ⟨by rw [h]; decide, fun _ => h⟩
    · exact ⟨by rw [h]; decide, fun hp' => absurd hp' hp⟩
  · intro s n x v0 v1 v2 v3 hx hf hs hv hpad hph
    have hstart : DecAt x.reg ⟨0#2, x.reg.pendingBits, false⟩ [] := ⟨hf, hs, hph, rfl, hpad, hv⟩
    obtain ⟨s0, y0, hi0, honly, h0⟩ := issueDec_decIngest_lutEnc v0 hx hstart
    obtain ⟨s1, y1, hi1, honly, h1⟩ := issueDec_decIngest_lutEnc v1 honly.1 h0
    obtain ⟨t1, z1, hg1, honly, h1⟩ := issueDec_decGetc honly.1 h1
    obtain ⟨s2, y2, hi2, honly, h2⟩ := issueDec_decIngest_lutEnc v2 honly.1 h1
    obtain ⟨t2, z2, hg2, honly, h2⟩ := issueDec_decGetc honly.1 h2
    obtain ⟨s3, y3, hi3, honly, h3⟩ := issueDec_decIngest_lutEnc v3 honly.1 h2
    obtain ⟨t3, z3, hg3, honly, h3⟩ := issueDec_decGetc honly.1 h3
    exact ⟨s0, s1, t1, s2, t2, s3, t3, z3, hi0, hi1, hg1, hi2, hg2, hi3, hg3, honly.1, h3.phase⟩

/-- Settles O53: both runs produce what the alphabet characters alone produce, whose number is known. -/
theorem paddingAndWhatFollowsProduceNothing : Obligations.PaddingAndWhatFollowsProduceNothing := by
  unfold Obligations.PaddingAndWhatFollowsProduceNothing
  intro s n chars rest hn hchars hrest
  have hcode : ∀ c ∈ chars, inCodeSet c = true := fun c hc => inCodeSet_of_isAlphabet (hchars c hc)
  obtain ⟨t, -, hrun, -⟩ := runDecode_of_codeSet hn hcode
  have hcode' : ∀ c ∈ chars ++ padChar :: rest, inCodeSet c = true :=
    List.forall_mem_append.2 ⟨hcode, List.forall_mem_cons.2 ⟨inCodeSet_padChar, hrest⟩⟩
  obtain ⟨u, -, hrun', -⟩ := runDecode_of_codeSet hn hcode'
  rw [DecPoint.decoded_append_padChar] at hrun'
  have hlength := DecPoint.length_decoded (p := .start) rfl hchars
  simp only [DecPoint.start, BitVec.toNat_ofNat] at hlength
  exact ⟨_, t, u, hrun, hrun', by rw [DecPoint.start]; omega⟩

/-- DECODE of the encoding followed by any number of `=` gives the bytes encoded. -/
theorem runDecode_base64url_padded {s : State} {m : Nat} (bytes : List Byte) (k : Nat) (hm : m < s.decs.length) :
    ∃ u y, runDecode m (base64url bytes ++ List.replicate k padChar) s = .done bytes u ∧ DecOnly s u m y ∧
      decSessionEnded y.reg := by
  have hcode : ∀ c ∈ base64url bytes ++ List.replicate k padChar, inCodeSet c = true := by
    refine List.forall_mem_append.2 ⟨fun c hc => inCodeSet_of_isAlphabet (isAlphabet_of_mem_base64url bytes c hc), ?_⟩
    intro c hc
    rw [List.eq_of_mem_replicate hc, inCodeSet_padChar]
  have hbytes : DecPoint.start.decoded (base64url bytes ++ List.replicate k padChar) = bytes := by
    cases k with
    | zero => rw [List.replicate_zero, List.append_nil, DecPoint.start, DecPoint.decoded_base64url]
    | succ k => rw [List.replicate_succ, DecPoint.decoded_append_padChar, DecPoint.start, DecPoint.decoded_base64url]
  obtain ⟨u, y, hrun, honly, hend⟩ := runDecode_of_codeSet hm hcode
  rw [hbytes] at hrun
  exact ⟨u, y, hrun, honly, hend⟩

/-- Settles O54: ENCODE leaves the decoders as they were and collects the encoding, ENCODE_PADDED with some `=` after
it, and decoding either gives the bytes encoded. -/
theorem decodeOfEncodeIsTheInput : Obligations.DecodeOfEncodeIsTheInput := by
  unfold Obligations.DecodeOfEncodeIsTheInput
  intro s n m bytes hn hm
  constructor
  · obtain ⟨t, x, hencode, ⟨-, -, -, hdecs, -⟩, -⟩ := runEncode_eq bytes hn
    obtain ⟨u, y, hdecode, honly, hfault, -⟩ := runDecode_base64url_padded (s := t) bytes 0 (by rwa [hdecs])
    rw [List.replicate_zero, List.append_nil] at hdecode
    exact ⟨_, t, u, y, hencode, hdecode, honly.1, hfault⟩
  · obtain ⟨t, x, hencode, ⟨-, -, -, hdecs, -⟩, -⟩ := runEncodePadded_eq bytes hn
    obtain ⟨u, y, hdecode, honly, hfault, -⟩ := runDecode_base64url_padded (s := t) bytes _ (by rwa [hdecs])
    exact ⟨_, t, u, y, hencode, hdecode, honly.1, hfault⟩

end Sys2Proof.Machine

namespace Sys2Proof.Machine

/-! ### The values of the slice forms (R111) -/

/-- The two parts of a concatenation occupy disjoint bit positions, so its value is the sum of theirs. -/
theorem toNat_append_eq_add {k w : Nat} (x : BitVec k) (y : BitVec w) :
    (x ++ y).toNat = x.toNat * 2 ^ w + y.toNat := by
  rw [BitVec.toNat_append, ← Nat.shiftLeft_add_eq_or_of_lt y.isLt, Nat.shiftLeft_eq]

/-- A slice that ends at the top bit is a quotient. -/
theorem toNat_extractLsb'_top {k w : Nat} (start : Nat) (x : BitVec k) (h : k = start + w) :
    (x.extractLsb' start w).toNat = x.toNat / 2 ^ start := by
  have hlt : x.toNat / 2 ^ start < 2 ^ w := Nat.div_lt_of_lt_mul (by rw [← Nat.pow_add, ← h]; exact x.isLt)
  rw [BitVec.extractLsb'_toNat, Nat.shiftRight_eq_div_pow, Nat.mod_eq_of_lt hlt]

/-- A slice that starts at bit 0 is a remainder. -/
theorem toNat_extractLsb'_zero {k : Nat} (w : Nat) (x : BitVec k) :
    (x.extractLsb' 0 w).toNat = x.toNat % 2 ^ w := by
  rw [BitVec.extractLsb'_toNat, Nat.shiftRight_zero]

section
variable (p b : Byte)

theorem toNat_symPhase1 : (symPhase1 p b).toNat = p.toNat % 4 * 16 + b.toNat / 16 := by
  rw [symPhase1, toNat_append_eq_add, toNat_extractLsb'_zero, toNat_extractLsb'_top 4 b rfl]
  rfl

theorem toNat_symPhase2 : (symPhase2 p b).toNat = p.toNat % 16 * 4 + b.toNat / 64 := by
  rw [symPhase2, toNat_append_eq_add, toNat_extractLsb'_zero, toNat_extractLsb'_top 6 b rfl]
  rfl

end

section
variable (p v : Sym)

theorem toNat_bytePhase1 : (bytePhase1 p v).toNat = p.toNat * 4 + v.toNat / 16 := by
  rw [bytePhase1, toNat_append_eq_add, toNat_extractLsb'_top 4 v rfl]
  rfl

theorem toNat_bytePhase2 : (bytePhase2 p v).toNat = p.toNat % 16 * 16 + v.toNat / 4 := by
  rw [bytePhase2, toNat_append_eq_add, toNat_extractLsb'_zero, toNat_extractLsb'_top 2 v rfl]
  rfl

theorem toNat_bytePhase3 : (bytePhase3 p v).toNat = p.toNat % 4 * 64 + v.toNat := by
  rw [bytePhase3, toNat_append_eq_add, toNat_extractLsb'_zero]
  rfl

end

/-- Settles O46: the shift-and-mask forms agree with the slices bit by bit, and the sums are the values of the
concatenations. -/
theorem sliceFormsEqualShiftAndMaskForms : Obligations.SliceFormsEqualShiftAndMaskForms := by
  unfold Obligations.SliceFormsEqualShiftAndMaskForms
  refine ⟨fun b => ?encodeOneByte, fun p b => ?encodeTwoBytes, fun p v => ?decode⟩
  case encodeOneByte => exact ⟨symPhase0_eq_srcSym0 b, symLast_eq_srcSym3 b⟩
  case encodeTwoBytes =>
    exact ⟨symPhase1_eq_srcSym1 p b, symPhase2_eq_srcSym2 p b, symFlush1_eq_srcSym1 p, symFlush2_eq_srcSym2 p,
      toNat_symPhase1 p b, toNat_symPhase2 p b⟩
  case decode =>
    exact ⟨bytePhase1_eq_srcByte1 p v, bytePhase2_eq_srcByte2 p v, bytePhase3_eq_srcByte3 p v,
      toNat_bytePhase1 p v, toNat_bytePhase2 p v, toNat_bytePhase3 p v⟩

end Sys2Proof.Machine

namespace Sys2Proof.Machine

/-! ### Independence (R151) -/

/-- Settles O40: the frame unit by unit, and equal contents of the own unit lead to equal contents. -/
theorem instancesAreIndependent : Obligations.InstancesAreIndependent := by
  unfold Obligations.InstancesAreIndependent
  refine ⟨fun i s t h => ?writes, fun i s s' t n hu hs h => ?readsEnc, fun i s s' t n hu hs h => ?readsDec⟩
  case writes =>
    have hframe (k : UnitId) (hk : unitOf i ≠ k) : t.contents k = s.contents k := exec_contents_of_ne h hk.symm
    obtain ⟨hencs, hdecs⟩ := exec_lengths h
    exact ⟨fun n hn => UnitContents.enc.inj (hframe _ hn), fun n hn => UnitContents.dec.inj (hframe _ hn),
      fun hk => UnitContents.encSym.inj (hframe _ hk), fun hk => UnitContents.decChar.inj (hframe _ hk),
      hencs, hdecs, exec_inputs h⟩
  case readsEnc =>
    obtain ⟨t', ht', hsame⟩ := exec_of_contents_eq (s' := s') h (by rw [hu]; exact congrArg UnitContents.enc hs.symm)
    rw [hu] at hsame
    exact ⟨t', ht', UnitContents.enc.inj hsame⟩
  case readsDec =>
    obtain ⟨t', ht', hsame⟩ := exec_of_contents_eq (s' := s') h (by rw [hu]; exact congrArg UnitContents.dec hs.symm)
    rw [hu] at hsame
    exact ⟨t', ht', UnitContents.dec.inj hsame⟩

/-! ### Entering a fault (R146) -/

/-- A move that takes an encoder to a fault records the code and nothing else. -/
theorem EncMove.eq_of_fault_entered {n : Nat} {e e' : EncState} {i : Instr} (hm : EncMove n e i e')
    (hf : e.fault = 0#3) (hf' : e'.fault ≠ 0#3) : e' = { e with fault := e'.fault } := by
  cases hm with
  | raises => rfl
  | resets => exact absurd rfl hf'
  | _ => exact absurd hf hf'

/-- A move that takes a decoder to a fault records the code and nothing else. -/
theorem DecMove.eq_of_fault_entered {n : Nat} {d d' : DecState} {i : Instr} (hm : DecMove n d i d')
    (hf : d.fault = 0#3) (hf' : d'.fault ≠ 0#3) : d' = { d with fault := d'.fault } := by
  cases hm with
  | raises => rfl
  | resets => exact absurd rfl hf'
  | _ => exact absurd hf hf'

/-! ### The faulted state (R146, R147) -/

section
variable {i : Instr} {s t : State} {n : Nat}

/-- A faulted encoder keeps its state under every instruction but its RESET; a command on its port responds zero. -/
theorem exec_enc_of_fault {x y : EncInstance} (h : exec i s = .next t) (hx : s.encs[n]? = some x)
    (hy : t.encs[n]? = some y) (hf : x.reg.fault ≠ 0#3) (hi : i ≠ .encReset n) :
    y.reg = x.reg ∧ (unitOf i = .enc n → y.out = Response.zero) := by
  rcases exec_enc_after h hx hy with ⟨hu, rfl⟩ | ⟨hu, rfl⟩
  · simp [encEffect_of_fault hu hi hf]
  · exact ⟨rfl, fun hu' => absurd hu' hu⟩

/-- A faulted decoder keeps its state under every instruction but its RESET; a command on its port responds zero. -/
theorem exec_dec_of_fault {x y : DecInstance} (h : exec i s = .next t) (hx : s.decs[n]? = some x)
    (hy : t.decs[n]? = some y) (hf : x.reg.fault ≠ 0#3) (hi : i ≠ .decReset n) :
    y.reg = x.reg ∧ (unitOf i = .dec n → y.out = Response.zero) := by
  rcases exec_dec_after h hx hy with ⟨hu, rfl⟩ | ⟨hu, rfl⟩
  · simp [decEffect_of_fault hu hi hf]
  · exact ⟨rfl, fun hu' => absurd hu' hu⟩

/-- An instruction that takes an encoder to a fault records the code, changes nothing else and responds zero. -/
theorem exec_enc_of_fault_entered {x y : EncInstance} (h : exec i s = .next t) (hx : s.encs[n]? = some x)
    (hy : t.encs[n]? = some y) (hf : x.reg.fault = 0#3) (hf' : y.reg.fault ≠ 0#3) :
    y.reg = { x.reg with fault := y.reg.fault } ∧ y.out = Response.zero := by
  refine ⟨(exec_encMove h hx hy).eq_of_fault_entered hf hf', ?_⟩
  rcases exec_enc_after h hx hy with ⟨hu, -⟩ | ⟨-, rfl⟩
  · exact (exec_encAnswers hu h hx hy).zero_of_fault hf'
  · exact absurd hf hf'

/-- An instruction that takes a decoder to a fault records the code, changes nothing else and responds zero. -/
theorem exec_dec_of_fault_entered {x y : DecInstance} (h : exec i s = .next t) (hx : s.decs[n]? = some x)
    (hy : t.decs[n]? = some y) (hf : x.reg.fault = 0#3) (hf' : y.reg.fault ≠ 0#3) :
    y.reg = { x.reg with fault := y.reg.fault } ∧ y.out = Response.zero := by
  refine ⟨(exec_decMove h hx hy).eq_of_fault_entered hf hf', ?_⟩
  rcases exec_dec_after h hx hy with ⟨hu, -⟩ | ⟨-, rfl⟩
  · exact (exec_decAnswers hu h hx hy).zero_of_fault hf'
  · exact absurd hf hf'

end

/-- Settles O35: entry is the move of a raised code with the response R79 gives it, and the freeze does the rest. -/
theorem faultsArePrecise : Obligations.FaultsArePrecise := by
  unfold Obligations.FaultsArePrecise
  constructor
  · intro i s t n x y h hx hy
    refine ⟨fun hf hf' => ?_, fun hf hu hi => ?_⟩
    · obtain ⟨hreg, hout⟩ := exec_enc_of_fault_entered h hx hy hf hf'
      exact congrArg₂ EncInstance.mk hreg hout
    · obtain ⟨hreg, hout⟩ := exec_enc_of_fault h hx hy hf hi
      exact congrArg₂ EncInstance.mk hreg (hout hu)
  · intro i s t n x y h hx hy
    refine ⟨fun hf hf' => ?_, fun hf hu hi => ?_⟩
    · obtain ⟨hreg, hout⟩ := exec_dec_of_fault_entered h hx hy hf hf'
      exact congrArg₂ DecInstance.mk hreg hout
    · obtain ⟨hreg, hout⟩ := exec_dec_of_fault h hx hy hf hi
      exact congrArg₂ DecInstance.mk hreg (hout hu)

/-- Settles O36: RESET's one move leads to the reset state, and the freeze holds against every other instruction. -/
theorem onlyResetLeavesTheFaultedState : Obligations.OnlyResetLeavesTheFaultedState := by
  unfold Obligations.OnlyResetLeavesTheFaultedState
  constructor
  · intro i s t n x y h hx hy hf
    by_cases hi : i = .encReset n
    · subst hi
      exact .inl ⟨rfl, (exec_encMove h hx hy).eq_reset⟩
    · exact .inr ⟨hi, (exec_enc_of_fault h hx hy hf hi).1⟩
  · intro i s t n x y h hx hy hf
    by_cases hi : i = .decReset n
    · subst hi
      exact .inl ⟨rfl, (exec_decMove h hx hy).eq_reset⟩
    · exact .inr ⟨hi, (exec_dec_of_fault h hx hy hf hi).1⟩

/-! ### The code a decoder command records (R141, R145) -/

/-- The code with which a command is refused by a decoder without a fault, by priority; 0 when it is accepted,
and for an instruction of another unit. -/
def decRefusal (d : DecState) : Instr → BitVec 3
  | .decIngest _ c =>
    if d.stage ≠ 0#1 then 2#3 else if d.slotValid = true then 1#3 else if inCodeSet c = false then 4#3 else 0#3
  | .decGetc _ => if d.slotValid = false then 3#3 else 0#3
  | .decFinish _ => if d.stage ≠ 0#1 then 2#3 else 0#3
  | .decIllegal101 _ _ | .decIllegal11x _ _ => 5#3
  | .decNop _ | .decReset _ => 0#3
  | .encNop _ | .encReset _ | .encIngest _ _ | .encGetc _ | .encFinish _ | .encPad _ | .encIllegal _ _
  | .lutEnc _ | .lutDec _ => 0#3

section
variable {d : DecState} (hf : d.fault = 0#3) (n : Nat)
include hf

theorem decIngestStep_fault (c : Byte) : (decIngestStep c d).1.fault = decRefusal d (.decIngest n c) := by
  rcases decIngestStep_cases c d with ⟨hs, h⟩ | ⟨hs, hv, h⟩ | ⟨hs, hv, hc, h⟩ | ⟨hs, hv, rfl, h⟩ | ⟨hs, hv, hc, -, h⟩ |
    ⟨hs, hv, hc, -, -, h⟩ | ⟨hs, hv, hc, -, -, h⟩ | ⟨hs, hv, hc, -, -, h⟩ | ⟨hs, hv, hc, -, -, h⟩
  · simp [h, decRefusal, raiseDec, hs]
  · simp [h, decRefusal, raiseDec, hs, hv]
  · simp [h, decRefusal, raiseDec, hs, hv, hc]
  · simp [h, decRefusal, hs, hv, hf, inCodeSet_padChar]
  -- The alphabet characters, all accepted: after `=`, and in the four phases.
  all_goals simp [h, decRefusal, hs, hv, hf, inCodeSet_of_isAlphabet hc]

theorem decGetcStep_fault : (decGetcStep d).1.fault = decRefusal d (.decGetc n) := by
  rcases decGetcStep_cases d with ⟨hv, h⟩ | ⟨hv, h⟩
  · simp [h, decRefusal, raiseDec, hv]
  · simp [h, decRefusal, hv, hf]

theorem decFinishStep_fault : (decFinishStep d).1.fault = decRefusal d (.decFinish n) := by
  rcases decFinishStep_cases d with ⟨hs, h⟩ | ⟨hs, h⟩
  · simp [h, decRefusal, raiseDec, hs]
  · simp [h, decRefusal, hs, hf]

end

/-- A decoder without a fault has, after a command, the code of its refusal recorded. -/
theorem decEffect_fault {i : Instr} {n : Nat} {d : DecState} (hu : unitOf i = .dec n) (hf : d.fault = 0#3) :
    (decEffect i d).1.fault = decRefusal d i := by
  have hrun (f : DecState → DecState × Response) : unlessFaultedDec f d = f d := unlessFaultedDec_of_no_fault f d hf
  cases i <;> simp only [unitOf, reduceCtorEq] at hu <;> simp only [decEffect, hrun]
  case decNop m => exact hf
  case decReset m => rfl
  case decIngest m c => exact decIngestStep_fault hf m c
  case decGetc m => exact decGetcStep_fault hf m
  case decFinish m => exact decFinishStep_fault hf m
  case decIllegal101 | decIllegal11x => rfl

/-- Settles O34: each clause reads one code off the refusals of the seven commands. -/
theorem decFaultCodesByPriority : Obligations.DecFaultCodesByPriority := by
  unfold Obligations.DecFaultCodesByPriority
  intro i s t n x y hu h hx hy hf
  have hcode : y.reg.fault = decRefusal x.reg i := by
    rcases exec_dec_after h hx hy with ⟨-, rfl⟩ | ⟨hne, -⟩
    · exact decEffect_fault hu hf
    · exact absurd hu hne
  rw [hcode]
  cases i <;> simp only [unitOf, UnitId.dec.injEq, reduceCtorEq] at hu <;> subst hu
  case decNop | decReset | decIllegal101 | decIllegal11x => simp [decRefusal]
  case decIngest m c =>
    by_cases hs : x.reg.stage = 0#1
    · cases hv : x.reg.slotValid
      · cases hc : inCodeSet c <;> simp [decRefusal, hs, hv, hc]
      · simp [decRefusal, hs, hv]
    · simp [decRefusal, hs]
  case decGetc m => cases hv : x.reg.slotValid <;> simp [decRefusal, hv]
  case decFinish m => by_cases hs : x.reg.stage = 0#1 <;> simp [decRefusal, hs]

end Sys2Proof.Machine

namespace Sys2Proof.Machine

/-! ### The missing arm of the encoder (R162)

On an accepted stage with a drained queue, phase 3 leaves only the last case of the three steps. -/

section
variable {e : EncState} (hq : e.qlen = 0#2) (hp : e.phase = 3#2)
include hq hp

theorem encIngestStep_phase3 (b : Byte) (hs : e.stage = 0#2) : encIngestStep b e = raiseEnc 5#3 e := by
  simpa [hs, hq, hp] using encIngestStep_cases b e

theorem encFinishStep_phase3 (hs : e.stage = 0#2) : encFinishStep e = raiseEnc 5#3 e := by
  simpa [hs, hq, hp] using encFinishStep_cases e

theorem encPadStep_phase3 (hs : e.stage = 1#2) : encPadStep e = raiseEnc 5#3 e := by
  simpa [hs, hq, hp] using encPadStep_cases e

end

/-- Settles O25: at phase 3 the order and drain checks pass and each of the three steps raises code 5. -/
theorem encMissingPhaseArmIsIllegal : Obligations.EncMissingPhaseArmIsIllegal := by
  unfold Obligations.EncMissingPhaseArmIsIllegal
  intro s n x b hx hf hq hp
  refine ⟨fun hs => ⟨?_, ?_⟩, fun hs => ?_⟩
  · exact exec_encCommand_goes rfl rfl hx hf (encIngestStep_phase3 hq hp b hs)
  · exact exec_encCommand_goes rfl rfl hx hf (encFinishStep_phase3 hq hp hs)
  · exact exec_encCommand_goes rfl rfl hx hf (encPadStep_phase3 hq hp hs)

/-! ### How ENCODE and ENCODE_PADDED end (R170, R171) -/

/-- Settles O49: the run of ENCODE leaves the encoder drained, without a fault, in stage FINISHED. -/
theorem encodeProducesTheEncoding : Obligations.EncodeProducesTheEncoding := by
  unfold Obligations.EncodeProducesTheEncoding
  intro s n bytes hn
  obtain ⟨t, y, hrun, honly, hy⟩ := runEncode_eq bytes hn
  exact ⟨t, y, hrun, honly, hy.fault, hy.stage, hy.qlen, hy.fault, hy.qlen, .inl hy.stage⟩

/-- Settles O50: the run of ENCODE_PADDED leaves the encoder drained, without a fault, in stage PADDED at phase 0. -/
theorem encodePaddedAppendsThePadding : Obligations.EncodePaddedAppendsThePadding := by
  unfold Obligations.EncodePaddedAppendsThePadding
  intro s n bytes hn
  obtain ⟨t, y, hrun, honly, hy⟩ := runEncodePadded_eq bytes hn
  exact ⟨t, y, hrun, honly, hy.fault, hy.stage, hy.qlen, hy.phase⟩

/-! ### How DECODE fails (R123, R170) -/

section
variable {s : State} {n : Nat} {x : DecInstance} {p : DecPoint}

/-- INGEST of a foreign character raises DECODE_ERROR, which the host reads on the fault pin. -/
theorem issueDec_decIngest_foreign {c : Byte} (hx : s.decs[n]? = some x) (h : DecAt x.reg p [])
    (hc : inCodeSet c = false) :
    ∃ r t y, issueDec n (.decIngest n c) s = some (r, 4#3, t) ∧ t.decs[n]? = some y ∧ y.reg.fault = 4#3 := by
  have hstep : decIngestStep c x.reg = raiseDec 4#3 x.reg := decIngestStep_of_foreign h.stage h.slotValid hc
  have hgoes : DecGoes (.decIngest n c) s n { x.reg with fault := 4#3 } 0#2 0#8 :=
    exec_decCommand_goes rfl rfl hx h.fault hstep
  obtain ⟨t, hissue, honly⟩ := issueDec_of_goes rfl hgoes
  exact ⟨_, t, _, hissue, honly.1, rfl⟩

/-- The ingest loop runs up to the first foreign character and fails there. -/
theorem decFeed_of_foreign {cs : List Byte} (hx : s.decs[n]? = some x) (h : DecAt x.reg p [])
    (hcs : ∃ c ∈ cs, inCodeSet c = false) :
    ∃ t y, decFeed n cs s = .failed t ∧ t.decs[n]? = some y ∧ y.reg.fault = 4#3 := by
  induction cs generalizing s x p with
  | nil => simp at hcs
  | cons c cs ih =>
    cases hc : inCodeSet c with
    | false =>
      obtain ⟨r, t, y, hissue, hy, hfault⟩ := issueDec_decIngest_foreign hx h hc
      exact ⟨t, y, by simp [decFeed, hissue], hy, hfault⟩
    | true =>
      have hrest : ∃ c ∈ cs, inCodeSet c = false := by simpa [hc] using hcs
      obtain ⟨t1, y1, hissue, honly1, hy1⟩ := issueDec_decIngest hx h hc
      obtain ⟨t2, y2, hdrain, honly2, hy2⟩ := decDrain_of_held honly1.1 hy1
      obtain ⟨t3, y3, hfeed, hy3, hfault⟩ := ih honly2.1 hy2 hrest
      refine ⟨t3, y3, ?_, hy3, hfault⟩
      simp only [decFeed, hissue, hdrain, hfeed, ne_eq, not_true_eq_false, if_false]

/-- DECODE of an input with a foreign character, from any state of the instance. -/
theorem runDecode_of_foreign {cs : List Byte} (hn : n < s.decs.length) (hcs : ∃ c ∈ cs, inCodeSet c = false) :
    ∃ t y, runDecode n cs s = .failed t ∧ t.decs[n]? = some y ∧ y.reg.fault = 4#3 := by
  obtain ⟨r, f, t0, y0, hreset, honly0, hy0⟩ := issueDec_decReset (List.getElem?_eq_getElem hn)
  obtain ⟨t, y, hfeed, hy, hfault⟩ := decFeed_of_foreign honly0.1 hy0 hcs
  exact ⟨t, y, by simp [runDecode, hreset, hfeed], hy, hfault⟩

end

/-- Settles O52: a foreign character ends the ingest loop with code 4; without one the session runs to its end. -/
theorem decodeFailsExactlyOnForeignCharacters : Obligations.DecodeFailsExactlyOnForeignCharacters := by
  unfold Obligations.DecodeFailsExactlyOnForeignCharacters
  intro s n chars hn
  refine ⟨runDecode_of_foreign hn, fun hcode => ?_⟩
  obtain ⟨t, y, hrun, honly, hend⟩ := runDecode_of_codeSet hn hcode
  exact ⟨_, t, y, hrun, honly, hend⟩

end Sys2Proof.Machine
